-- ==== Sys2Proof/Word.lean ====
section
/-! DEFINITION. The words of the block: a byte, a 16-bit field and a 32-bit field (spec/00_scope.md R6, R8).
Every value is unsigned, and no operation is signed (R8). -/

namespace Sys2Proof

/-- One byte: a device address, a function code, a byte of a buffer (R6). -/
abbrev Byte := BitVec 8

/-- A 16-bit field: a coil or register address, a register value, a CRC (R6). -/
abbrev Half := BitVec 16

/-- A 32-bit field: the pattern of a binary32 float, and the register RESULT (R6, R29). -/
abbrev Word := BitVec 32

end Sys2Proof
end

