-- ==== Sys2Proof/Config.lean ====
section
/-! DEFINITION. The parameters of this hardware (spec/00_scope.md R7): the values the spec takes, and the named open
parameters. An open parameter is an opaque constant: no proof can see its value. -/

namespace Sys2Proof.Config

/-- `CRC_POLY`, the reflected polynomial (R7, spec/40_crc.md R90). -/
def crcPoly : Half := 0xA001

/-- `CRC_SEED`, the initial register (R7, spec/40_crc.md R91). There is no final XOR (`CRC_FINAL_XOR`, R7). -/
def crcSeed : Half := 0xFFFF

/-- `COIL_ON_WORD`: TRUE goes on the wire as `00 01` (R7; spec/90_conflicts.md C2). -/
def coilOnWord : Half := 0x0001

/-- `COIL_OFF_WORD` (R7). -/
def coilOffWord : Half := 0x0000

/-- `MAX_TX_FRAME`: the bytes of the longest request, and of the frame buffer TXB (R7, spec/10_state.md R24). -/
abbrev maxTxFrame : Nat := 13

/-- `SETTLE_INTERVAL`, OPEN: a parameter of the host that no command of the block uses (R7; spec/92_eei_decisions.md D20).
Log entry 8. -/
opaque settleInterval : Nat

/-- `READ_TIMEOUT(n)`, OPEN: a parameter of the host (R7; spec/92_eei_decisions.md D21). Log entry 8. -/
opaque readTimeout : Nat → Nat

/-- `WRITE_TIMEOUT(n)`, OPEN: a parameter of the host (R7; spec/92_eei_decisions.md D21). Log entry 8. -/
opaque writeTimeout : Nat → Nat

/-- What the host configures when it opens the port (R7; spec/60_exceptions.md R176). -/
structure LineSettings where
  baud : Nat
  dataBits : Nat
  stopBits : Nat
  parity : Bool
  /-- Stale received bytes are purged on open. -/
  purge : Bool
  deriving DecidableEq, Repr

/-- The line settings (R7; spec/60_exceptions.md R176): 9600 baud, 8 data bits, 1 stop bit, no parity, and a purge on open. They
are the host's, and no command depends on them. -/
def lineSettings : LineSettings := ⟨9600, 8, 1, false, true⟩

end Sys2Proof.Config
end

