-- ==== Sys2Proof/Syntax.lean ====
section
/-! DEFINITION. The commands of the block as syntax (spec/30_encoding.md R63, R64): one constructor of `Instr` per row of
spec/opcode_table.json, operands already taken apart from their bytes. -/

namespace Sys2Proof

/-- The CRC policy, the operand of SET_POLICY and the register POLICY (spec/10_state.md R23). -/
inductive Policy where
  /-- 0: a CRC mismatch rejects the response. -/
  | strict
  /-- 1: a CRC mismatch is a warning and decoding goes on. -/
  | lenient
  deriving DecidableEq, Repr

/-- The assigned opcodes, by the names of R63's table. -/
inductive Opcode where
  | nop | crcInit | crcUpdate | crcCompute | setPolicy
  | encRdCoil | encRdU16 | encRdF32 | encWrCoil | encWrU16 | encWrF32
  | dec
  deriving DecidableEq, Repr

/-- The illegal command encodings of R64, with the bytes each one consumes. -/
inductive IllegalForm where
  /-- An unassigned opcode byte: one byte, the opcode alone. -/
  | opcode (op : Byte)
  /-- SET_POLICY with `p` not 0x00 or 0x01: two bytes. -/
  | policy (p : Byte)
  /-- ENC_WR_COIL with `v` not 0x00 or 0x01: five bytes. -/
  | coil (dev : Byte) (a : Half) (v : Byte)
  deriving DecidableEq, Repr

/-- A command of the block. The byte-sequence operands carry their bytes; the length byte `n` is their length (R61). -/
inductive Instr where
  /-- NOP (spec/43_config.md R150). -/
  | nop
  /-- CRC_INIT (spec/40_crc.md R92). -/
  | crcInit
  /-- CRC_UPDATE `b` (spec/40_crc.md R93). -/
  | crcUpdate (b : Byte)
  /-- CRC_COMPUTE `[buf]` (spec/40_crc.md R94). -/
  | crcCompute (buf : List Byte)
  /-- SET_POLICY `p` (spec/43_config.md R151). -/
  | setPolicy (p : Policy)
  /-- ENC_RD_COIL `dev, a` (spec/41_encode.md R102). -/
  | encRdCoil (dev : Byte) (a : Half)
  /-- ENC_RD_U16 `dev, a` (spec/41_encode.md R103). -/
  | encRdU16 (dev : Byte) (a : Half)
  /-- ENC_RD_F32 `dev, a` (spec/41_encode.md R104). -/
  | encRdF32 (dev : Byte) (a : Half)
  /-- ENC_WR_COIL `dev, a, v` (spec/41_encode.md R105). -/
  | encWrCoil (dev : Byte) (a : Half) (v : Bool)
  /-- ENC_WR_U16 `dev, a, v` (spec/41_encode.md R106). -/
  | encWrU16 (dev : Byte) (a : Half) (v : Half)
  /-- ENC_WR_F32 `dev, a, F` (spec/41_encode.md R107). -/
  | encWrF32 (dev : Byte) (a : Half) (f : Word)
  /-- DEC `[rx]` (spec/42_decode.md R120). -/
  | dec (rx : List Byte)
  /-- An illegal encoding (R64; spec/43_config.md R152). -/
  | illegal (e : IllegalForm)
  deriving DecidableEq, Repr

end Sys2Proof
end

