-- ==== Sys2Proof/Machine/Operands.lean ====
section
/-! DEFINITION. Operand forms: the operators that take fields apart and put them together (spec/00_scope.md R9,
spec/20_memory.md R43 to R45, spec/30_encoding.md R75 to R77), the opcode bytes of the command map (R63), and the operand
bytes of SET_POLICY and ENC_WR_COIL. -/

namespace Sys2Proof

/-- `hi8(v) = v[15:8]` (R9). -/
def hi8 (v : Half) : Byte := v.extractLsb' 8 8

/-- `lo8(v) = v[7:0]` (R9). -/
def lo8 (v : Half) : Byte := v.extractLsb' 0 8

/-- `be16(x, y) = (x << 8) | y` (R9, R75). -/
def be16 (x y : Byte) : Half := (x.setWidth 16 <<< 8) ||| y.setWidth 16

/-- `be32(a, b, c, d) = (a << 24) | (b << 16) | (c << 8) | d` (R9, R76). -/
def be32 (a b c d : Byte) : Word :=
  (a.setWidth 32 <<< 24) ||| (b.setWidth 32 <<< 16) ||| (c.setWidth 32 <<< 8) ||| d.setWidth 32

/-- A 16-bit field in wire order, most significant byte first (R44, R75). -/
def halfBytes (v : Half) : List Byte := [hi8 v, lo8 v]

/-- A 32-bit pattern in wire order: `{F[31:24], F[23:16], F[15:8], F[7:0]}` (R45, R76). -/
def wordBytes (f : Word) : List Byte :=
  [f.extractLsb' 24 8, f.extractLsb' 16 8, f.extractLsb' 8 8, f.extractLsb' 0 8]

/-- The wire word of a coil state: `COIL_ON_WORD` or `COIL_OFF_WORD` (spec/41_encode.md R105). -/
def coilWord (v : Bool) : Half := if v then Config.coilOnWord else Config.coilOffWord

/-- Byte `i` of a received sequence, counted from 0 (R8). Past the end it reads 0x00, which no command observes: DEC
checks the length before it reads a byte (spec/42_decode.md R122; log entry 6). -/
def rxByte (rx : List Byte) (i : Nat) : Byte := rx.getD i 0

/-- The bit POLICY of a policy: 0 STRICT, 1 LENIENT (spec/10_state.md R23). -/
def Policy.code : Policy → BitVec 1
  | .strict => 0
  | .lenient => 1

/-- The operand byte `p` of SET_POLICY (R63). -/
def policyByte : Policy → Byte
  | .strict => 0x00
  | .lenient => 0x01

/-- SET_POLICY with operand byte `p`: the command, or the illegal form for `p` not in {0x00, 0x01} (R64). -/
def policyCommand (p : Byte) : Instr :=
  if p = 0x00 then .setPolicy .strict else if p = 0x01 then .setPolicy .lenient else .illegal (.policy p)

/-- The operand byte `v` of ENC_WR_COIL (R63). -/
def coilByte (v : Bool) : Byte := if v then 0x01 else 0x00

/-- ENC_WR_COIL with operand byte `v`: the command, or the illegal form for `v` not in {0x00, 0x01} (R64). -/
def coilCommand (dev : Byte) (a : Half) (v : Byte) : Instr :=
  if v = 0x00 then .encWrCoil dev a false
  else if v = 0x01 then .encWrCoil dev a true
  else .illegal (.coil dev a v)

/-- The opcode bytes of the command map (R63). -/
def Opcode.byte : Opcode → Byte
  | .nop => 0x00
  | .crcInit => 0x01
  | .crcUpdate => 0x02
  | .crcCompute => 0x03
  | .setPolicy => 0x04
  | .encRdCoil => 0x10
  | .encRdU16 => 0x11
  | .encRdF32 => 0x12
  | .encWrCoil => 0x13
  | .encWrU16 => 0x14
  | .encWrF32 => 0x15
  | .dec => 0x20

/-- The rows of the command map, in R63's order. -/
def opcodes : List Opcode :=
  [.nop, .crcInit, .crcUpdate, .crcCompute, .setPolicy,
   .encRdCoil, .encRdU16, .encRdF32, .encWrCoil, .encWrU16, .encWrF32, .dec]

/-- The command an opcode byte selects; none for an unassigned byte (R63, R64). -/
def opcodeOf (b : Byte) : Option Opcode := opcodes.find? fun o => o.byte == b

end Sys2Proof
end

