-- ==== Sys2Proof/WellFormed.lean ====
section
/-! DEFINITION. When a term of `Instr` is a command that the command encoding can write: a byte sequence fits its length
byte (spec/30_encoding.md R61), and an illegal form really is illegal (R64). -/

namespace Sys2Proof

/-- The largest length byte `n` of CRC_COMPUTE and DEC: 0 ≤ n ≤ 255 (R61). -/
def maxOperandBytes : Nat := 255

/-- An illegal form is one of R64: its opcode is unassigned, or its operand is neither 0x00 nor 0x01. -/
def IllegalForm.wellFormed : IllegalForm → Bool
  | .opcode op => (opcodeOf op).isNone
  | .policy p => p != 0x00 && p != 0x01
  | .coil _ _ v => v != 0x00 && v != 0x01

/-- The check on a command. Every other operand has the width of its type, and every value of it is legal
(spec/41_encode.md R101). -/
def Instr.wellFormed : Instr → Bool
  | .nop => true
  | .crcInit => true
  | .crcUpdate _ => true
  | .crcCompute buf => buf.length ≤ maxOperandBytes
  | .setPolicy _ => true
  | .encRdCoil _ _ => true
  | .encRdU16 _ _ => true
  | .encRdF32 _ _ => true
  | .encWrCoil _ _ _ => true
  | .encWrU16 _ _ _ => true
  | .encWrF32 _ _ _ => true
  | .dec rx => rx.length ≤ maxOperandBytes
  | .illegal e => e.wellFormed

end Sys2Proof
end

