-- ==== Sys2Proof/Decode.lean ====
section
/-! DEFINITION. The command decoder and, after it, the encoder (spec/30_encoding.md R60 to R64). Both are written from the
command map of R63. The decoder is total: it takes the bytes at the head of the stream and answers a command with the bytes
after it, or says by name why no command can start (R62). -/

namespace Sys2Proof

/-- Why no command can start. Neither is an error of the stream: more bytes may arrive (R62). -/
inductive Reject where
  /-- The stream is empty. -/
  | noCommand
  /-- The head of the stream is the beginning of a command whose bytes are not all present (R62). -/
  | incompleteCommand
  deriving DecidableEq, Repr

/-- What decoding answers: a command and the bytes after it, or the reason there is none. -/
abbrev Decoded := Except Reject (Instr × List Byte)

/-- Read a length byte `n` and exactly `n` bytes after it, and make the command (R61). -/
def decodeCounted (make : List Byte → Instr) : List Byte → Decoded
  | n :: rest =>
    if n.toNat ≤ rest.length then .ok (make (rest.take n.toNat), rest.drop n.toNat) else .error .incompleteCommand
  | [] => .error .incompleteCommand

/-- Read `dev, aH, aL` and make the command (R63). -/
def decodeRead (make : Byte → Half → Instr) : List Byte → Decoded
  | dev :: aH :: aL :: rest => .ok (make dev (be16 aH aL), rest)
  | _ => .error .incompleteCommand

/-- Read `b` (R63). -/
def decodeUpdate : List Byte → Decoded
  | b :: rest => .ok (.crcUpdate b, rest)
  | [] => .error .incompleteCommand

/-- Read `p` (R63, R64). -/
def decodePolicy : List Byte → Decoded
  | p :: rest => .ok (policyCommand p, rest)
  | [] => .error .incompleteCommand

/-- Read `dev, aH, aL, v` (R63, R64). -/
def decodeWriteCoil : List Byte → Decoded
  | dev :: aH :: aL :: v :: rest => .ok (coilCommand dev (be16 aH aL) v, rest)
  | _ => .error .incompleteCommand

/-- Read `dev, aH, aL, vH, vL` (R63). -/
def decodeWriteU16 : List Byte → Decoded
  | dev :: aH :: aL :: vH :: vL :: rest => .ok (.encWrU16 dev (be16 aH aL) (be16 vH vL), rest)
  | _ => .error .incompleteCommand

/-- Read `dev, aH, aL, f3, f2, f1, f0` (R63). -/
def decodeWriteF32 : List Byte → Decoded
  | dev :: aH :: aL :: f3 :: f2 :: f1 :: f0 :: rest =>
    .ok (.encWrF32 dev (be16 aH aL) (be32 f3 f2 f1 f0), rest)
  | _ => .error .incompleteCommand

/-- Read the operand bytes that follow an assigned opcode (R61, R63). -/
def decodeOperands (o : Opcode) (rest : List Byte) : Decoded :=
  match o with
  | .nop => .ok (.nop, rest)
  | .crcInit => .ok (.crcInit, rest)
  | .crcUpdate => decodeUpdate rest
  | .crcCompute => decodeCounted .crcCompute rest
  | .setPolicy => decodePolicy rest
  | .encRdCoil => decodeRead .encRdCoil rest
  | .encRdU16 => decodeRead .encRdU16 rest
  | .encRdF32 => decodeRead .encRdF32 rest
  | .encWrCoil => decodeWriteCoil rest
  | .encWrU16 => decodeWriteU16 rest
  | .encWrF32 => decodeWriteF32 rest
  | .dec => decodeCounted .dec rest

/-- The command at the head of the stream (R60, R61). An unassigned opcode is an illegal command of one byte (R64). -/
def decode : List Byte → Decoded
  | [] => .error .noCommand
  | op :: rest =>
    match opcodeOf op with
    | some o => decodeOperands o rest
    | none => .ok (.illegal (.opcode op), rest)

/-- A byte sequence behind its length byte (R61). The length byte is exact for a sequence of at most 255 bytes. -/
def countedBytes (bs : List Byte) : List Byte := BitVec.ofNat 8 bs.length :: bs

/-- The bytes of a command: the opcode byte and then the operand bytes, in the order of R63; 16-bit and 32-bit operands most
significant byte first (R60). -/
def encode : Instr → List Byte
  | .nop => [Opcode.nop.byte]
  | .crcInit => [Opcode.crcInit.byte]
  | .crcUpdate b => [Opcode.crcUpdate.byte, b]
  | .crcCompute buf => Opcode.crcCompute.byte :: countedBytes buf
  | .setPolicy p => [Opcode.setPolicy.byte, policyByte p]
  | .encRdCoil dev a => Opcode.encRdCoil.byte :: dev :: halfBytes a
  | .encRdU16 dev a => Opcode.encRdU16.byte :: dev :: halfBytes a
  | .encRdF32 dev a => Opcode.encRdF32.byte :: dev :: halfBytes a
  | .encWrCoil dev a v => Opcode.encWrCoil.byte :: dev :: (halfBytes a ++ [coilByte v])
  | .encWrU16 dev a v => Opcode.encWrU16.byte :: dev :: (halfBytes a ++ halfBytes v)
  | .encWrF32 dev a f => Opcode.encWrF32.byte :: dev :: (halfBytes a ++ wordBytes f)
  | .dec rx => Opcode.dec.byte :: countedBytes rx
  | .illegal (.opcode op) => [op]
  | .illegal (.policy p) => [Opcode.setPolicy.byte, p]
  | .illegal (.coil dev a v) => Opcode.encWrCoil.byte :: dev :: (halfBytes a ++ [v])

/-- The number of bytes of the longest command: an opcode, a length byte and 255 bytes (R82). -/
def longestCommand : Nat := 257

/-- The `count` lowest bytes of a number, the least significant first: the numbering of spec/opcode_table.json, whose bit 0
is bit 0 of the first byte. -/
def numberBytes : Nat → Nat → List Byte
  | 0, _ => []
  | count + 1, w => BitVec.ofNat 8 w :: numberBytes count (w / 256)

/-- The bytes of an opcode-table word: its `nbits` bits, and zeros above them up to the longest command. -/
def tableBytes (nbits w : Nat) : List Byte := numberBytes longestCommand (w % 2 ^ nbits)

/-- The command the decoder reads from an opcode-table word. -/
def decodeTableWord (nbits w : Nat) : Option Instr :=
  match decode (tableBytes nbits w) with
  | .ok (i, _) => some i
  | .error _ => none

/-- The bytes of that command alone: what the decoder takes from the head of `tableBytes`. -/
def tableCommandBytes (nbits w : Nat) : List Byte :=
  match decode (tableBytes nbits w) with
  | .ok (_, rest) => (tableBytes nbits w).take (longestCommand - rest.length)
  | .error _ => tableBytes nbits w

end Sys2Proof
end

