-- ==== Sys2Proof/Machine/State.lean ====
section
/-! DEFINITION. The state of the block, one field per element of spec/10_state.md R22 to R31, and the host's command stream;
the reasons a step can stop; the state after reset (spec/70_reset_and_hazards.md R190). -/

namespace Sys2Proof.Machine

/-- The kind of a request: PEND_KIND (spec/10_state.md R27). The reserved values 6 and 7 are never written and have no
constructor (log entry 5). -/
inductive Kind where
  /-- 0: Read Coils, quantity 1. -/
  | rdCoil
  /-- 1: Read Holding Registers, quantity 1. -/
  | rdU16
  /-- 2: Read Holding Registers, quantity 2. -/
  | rdF32
  /-- 3: Write Single Coil. -/
  | wrCoil
  /-- 4: Write Multiple Holding Registers, quantity 1. -/
  | wrU16
  /-- 5: Write Multiple Holding Registers, quantity 2. -/
  | wrF32
  deriving DecidableEq, Repr

/-- The outcome codes of STATUS (spec/60_exceptions.md R160). The reserved codes 0xB to 0xE are never written and have no
constructor (log entry 5). -/
inductive Status where
  /-- 0x0: the command completed and every check passed (DEC, SET_POLICY). -/
  | ok
  /-- 0x1: the response does not have the expected length (DEC, R122). -/
  | shortRead
  /-- 0x2: the response's device address is not the request's (DEC, R123). -/
  | addressMismatch
  /-- 0x3: the recomputed CRC is not the received CRC (DEC, R124, STRICT only). -/
  | checksumMismatch
  /-- 0x4: the response's function code is not the request's (DEC, R125). -/
  | functionMismatch
  /-- 0x5: the declared count is not the kind's (DEC, R127, R128, R129, R131). -/
  | unexpectedByteCount
  /-- 0x6: the write-coil echo differs (DEC, R130). -/
  | echoMismatch
  /-- 0x7: DEC with PEND_VALID = 0 (R120). -/
  | noPendingRequest
  /-- 0x8: an illegal command encoding (R64, R152). -/
  | illegalCommand
  /-- 0x9: never written by the block; the host's classification of a short write (R177). -/
  | shortWrite
  /-- 0xA: never written by the block; the host's classification of a failed open (R176). -/
  | portOpenFailure
  /-- 0xF: no decode has completed since the last request was built (reset, encode commands). -/
  | noResult
  deriving DecidableEq, Repr

/-- The state of the block (spec/10_state.md §8), and the stream of command bytes the host has issued. -/
structure State where
  /-- ACC, the accumulator of the streaming CRC commands (R22). -/
  acc : Half
  /-- POLICY (R23). -/
  policy : Policy
  /-- TXB[0..12], the last request frame (R24). -/
  txb : Vector Byte Config.maxTxFrame
  /-- TXLEN, the frame's length in bytes (R24). -/
  txlen : BitVec 4
  /-- PEND_VALID (R26). -/
  pendValid : Bool
  /-- PEND_KIND (R27). -/
  pendKind : Kind
  /-- STATUS (R28). -/
  status : Status
  /-- RESULT (R29). -/
  result : Word
  /-- RESULT_VALID (R30). -/
  resultValid : Bool
  /-- CRC_WARN (R31). -/
  crcWarn : Bool
  /-- The command bytes the host has issued and the block has not taken, the next one first (spec/30_encoding.md R60).
  The model's own field for the host's stream (log entry 1). -/
  stream : List Byte
  deriving DecidableEq, Repr

/-- The faults of the block: none. An error is a STATUS code, and the block takes no trap (spec/60_exceptions.md R161, R166;
spec/43_config.md R152: "The block raises no trap and keeps going"). -/
inductive Fault where
  deriving DecidableEq, Repr

/-- Why `step` answers no next state. -/
inductive Refusal where
  /-- An instruction that has no meaning yet; no arm of `exec` raises it. Safe. -/
  | notModelled (mnemonic : String)
  /-- `step`, when the stream is empty: the block waits for the host's next command (spec/60_exceptions.md R171). There is no
  step and no state change. Safe. -/
  | awaitingCommand
  /-- `step`, when the bytes of the next command are not all present: the block is stuck until the rest arrives, which is no
  fault (spec/30_encoding.md R62). There is no step and no state change. Safe. -/
  | awaitingOperands
  deriving DecidableEq, Repr

/-- The state after reset (spec/70_reset_and_hazards.md R190), with nothing issued on the stream (log entry 1). -/
def State.reset : State where
  acc := 0xFFFF
  policy := .strict
  txb := Vector.replicate Config.maxTxFrame 0x00
  txlen := 0
  pendValid := false
  pendKind := .rdCoil
  status := .noResult
  result := 0x00000000
  resultValid := false
  crcWarn := false
  stream := []

end Sys2Proof.Machine
end

