-- ==== Sys2Proof/Machine/Ops.lean ====
section
/-! DEFINITION. The operations the commands share: the CRC functions (spec/40_crc.md R90, R91), the frame (spec/00_scope.md
R10), the tables of the request kinds (spec/10_state.md R27), building a request (spec/41_encode.md R100), and the ways a
command ends (spec/00_scope.md R10, spec/42_decode.md R126). The block takes no exception (spec/60_exceptions.md R166):
`finish` and `fail` are the only ways an outcome is reported (R161). -/

namespace Sys2Proof.Machine

/-- One of the eight iterations of `crc_step`: test the low bit, shift right, XOR the polynomial if the bit was 1 (R90). -/
def crcBit (x : Half) : Half := if x[0] then (x >>> 1) ^^^ Config.crcPoly else x >>> 1

/-- `crc_step(acc, b)` (R90): XOR the byte into the low byte, then eight iterations. -/
def crcStep (acc : Half) (b : Byte) : Half := crcBit^[8] (acc ^^^ b.setWidth 16)

/-- `crc16(buf)` (R91): from the seed, one step per byte; no final XOR. -/
def crc16 (buf : List Byte) : Half := buf.foldl crcStep Config.crcSeed

/-- A CRC in wire order, low byte first (spec/20_memory.md R43). -/
def crcBytes (c : Half) : List Byte := [lo8 c, hi8 c]

/-- `frame(body)`: the body and its CRC (R10). -/
def frame (body : List Byte) : List Byte := body ++ crcBytes (crc16 body)

/-- The value of PEND_KIND (R27). -/
def Kind.code : Kind → BitVec 3
  | .rdCoil => 0
  | .rdU16 => 1
  | .rdF32 => 2
  | .wrCoil => 3
  | .wrU16 => 4
  | .wrF32 => 5

/-- The function code of a kind's request (R27, spec/30_encoding.md R79). -/
def Kind.functionCode : Kind → Byte
  | .rdCoil => 0x01
  | .rdU16 => 0x03
  | .rdF32 => 0x03
  | .wrCoil => 0x05
  | .wrU16 => 0x10
  | .wrF32 => 0x10

/-- `RLEN(kind)`, the expected length of the response (R27). -/
def Kind.rlen : Kind → Nat
  | .rdCoil => 6
  | .rdU16 => 7
  | .rdF32 => 9
  | .wrCoil => 8
  | .wrU16 => 8
  | .wrF32 => 8

/-- The length of a kind's request (spec/30_encoding.md R74). -/
def Kind.requestLength : Kind → Nat
  | .rdCoil => 8
  | .rdU16 => 8
  | .rdF32 => 8
  | .wrCoil => 8
  | .wrU16 => 11
  | .wrF32 => 13

/-- The value of STATUS (spec/60_exceptions.md R160). -/
def Status.code : Status → BitVec 4
  | .ok => 0x0
  | .shortRead => 0x1
  | .addressMismatch => 0x2
  | .checksumMismatch => 0x3
  | .functionMismatch => 0x4
  | .unexpectedByteCount => 0x5
  | .echoMismatch => 0x6
  | .noPendingRequest => 0x7
  | .illegalCommand => 0x8
  | .shortWrite => 0x9
  | .portOpenFailure => 0xA
  | .noResult => 0xF

/-- `ACC <- v`. -/
def setAcc (v : Half) (s : State) : State := { s with acc := v }

/-- TXB holding a frame: its bytes, and 0x00 at every index from its length on (R100; spec/92_eei_decisions.md D36). -/
def bufferOf (f : List Byte) : Vector Byte Config.maxTxFrame := Vector.ofFn fun i => f.getD i 0x00

/-- The request frame as the host reads it, `TXB[0..TXLEN-1]` (R24). -/
def txFrame (s : State) : List Byte := s.txb.toList.take s.txlen.toNat

/-- `encode(kind, body)` (R100): build the frame, latch it as the pending request, clear the result registers. -/
def encodeRequest (k : Kind) (body : List Byte) (s : State) : State :=
  { s with
    txb := bufferOf (frame body)
    txlen := BitVec.ofNat 4 (body.length + 2)
    pendValid := true
    pendKind := k
    status := .noResult
    result := 0x00000000
    resultValid := false
    crcWarn := false }

/-- `finish(code)`: STATUS <- code (R10, R161). -/
def finish (code : Status) (s : State) : State := { s with status := code }

/-- `fail(code)`: STATUS <- code, RESULT and RESULT_VALID cleared; CRC_WARN keeps its value (R126). -/
def fail (code : Status) (s : State) : State :=
  { s with status := code, result := 0x00000000, resultValid := false }

/-- The host issues command bytes: they stand at the end of the stream, in the host's order (spec/30_encoding.md R60). -/
def hostIssue (bytes : List Byte) (s : State) : State := { s with stream := s.stream ++ bytes }

/-- The host resets the block: every element of R190 at its reset value at once (spec/70_reset_and_hazards.md R191). The
stream is the host's and stays (log entry 4). -/
def hostReset (s : State) : State := { State.reset with stream := s.stream }

end Sys2Proof.Machine
end

