-- ==== Sys2Proof/Machine/Flags.lean ====
section
/-! DEFINITION. The flag and result registers as DEC writes them: RESULT, RESULT_VALID, CRC_WARN and PEND_VALID
(spec/10_state.md R26, R29 to R31; spec/42_decode.md R120, R124). -/

namespace Sys2Proof.Machine

/-- The first line of DEC: RESULT, RESULT_VALID and CRC_WARN cleared (R120). -/
def clearOutcome (s : State) : State :=
  { s with result := 0x00000000, resultValid := false, crcWarn := false }

/-- `PEND_VALID <- 0`: one decode per request, whatever the outcome (R120). -/
def dropPending (s : State) : State := { s with pendValid := false }

/-- `CRC_WARN <- 1` (R124). -/
def warnCrc (s : State) : State := { s with crcWarn := true }

/-- `RESULT <- v; RESULT_VALID <- 1`, the success of a read decode (R127 to R129). -/
def deliver (v : Word) (s : State) : State := { s with result := v, resultValid := true }

/-- `POLICY <- p` (spec/43_config.md R151). -/
def setPolicyBit (p : Policy) (s : State) : State := { s with policy := p }

end Sys2Proof.Machine
end

