-- ==== Sys2Proof/Machine/Control.lean ====
section
/-! DEFINITION. Configuration and control: NOP, SET_POLICY and the illegal commands (spec/43_config.md R150 to R152). -/

namespace Sys2Proof.Machine

/-- NOP (R150): no state changes. -/
def execNop (s : State) : Host.Outcome State Fault Refusal := .next s

/-- SET_POLICY (R151): `POLICY <- p[0]; STATUS <- OK`. -/
def execSetPolicy (p : Policy) (s : State) : Host.Outcome State Fault Refusal := .next (finish .ok (setPolicyBit p s))

/-- An illegal command (R152): `STATUS <- IllegalCommand`, whichever of R64's encodings it is. How many bytes it consumes is
the decoder's. -/
def execIllegal (_e : IllegalForm) (s : State) : Host.Outcome State Fault Refusal := .next (finish .illegalCommand s)

end Sys2Proof.Machine
end

