-- ==== Sys2Proof/Machine/Crc.lean ====
section
/-! DEFINITION. The CRC engine commands (spec/40_crc.md R92 to R94). They write ACC and nothing else. -/

namespace Sys2Proof.Machine

/-- CRC_INIT (R92): `ACC <- 0xFFFF`. -/
def execCrcInit (s : State) : Host.Outcome State Fault Refusal := .next (setAcc Config.crcSeed s)

/-- CRC_UPDATE (R93): `ACC <- crc_step(ACC, b)`. -/
def execCrcUpdate (b : Byte) (s : State) : Host.Outcome State Fault Refusal := .next (setAcc (crcStep s.acc b) s)

/-- CRC_COMPUTE (R94): `ACC <- crc16(buf)`. -/
def execCrcCompute (buf : List Byte) (s : State) : Host.Outcome State Fault Refusal := .next (setAcc (crc16 buf) s)

end Sys2Proof.Machine
end

