-- ==== Sys2Proof/Machine/Encode.lean ====
section
/-! DEFINITION. The frame encoder commands (spec/41_encode.md R102 to R107). Each gives its kind and the body of its wire
format (spec/30_encoding.md W1 to W4) to `encodeRequest` (R100). Every operand value is accepted unchanged (R101). -/

namespace Sys2Proof.Machine

/-- ENC_RD_COIL (R102), format W1 (spec/30_encoding.md R65). -/
def execEncRdCoil (dev : Byte) (a : Half) (s : State) : Host.Outcome State Fault Refusal :=
  .next (encodeRequest .rdCoil [dev, 0x01, hi8 a, lo8 a, 0x00, 0x01] s)

/-- ENC_RD_U16 (R103), format W2 with q = 1 (spec/30_encoding.md R66). -/
def execEncRdU16 (dev : Byte) (a : Half) (s : State) : Host.Outcome State Fault Refusal :=
  .next (encodeRequest .rdU16 [dev, 0x03, hi8 a, lo8 a, 0x00, 0x01] s)

/-- ENC_RD_F32 (R104), format W2 with q = 2 (spec/30_encoding.md R66). -/
def execEncRdF32 (dev : Byte) (a : Half) (s : State) : Host.Outcome State Fault Refusal :=
  .next (encodeRequest .rdF32 [dev, 0x03, hi8 a, lo8 a, 0x00, 0x02] s)

/-- ENC_WR_COIL (R105), format W3 (spec/30_encoding.md R67). -/
def execEncWrCoil (dev : Byte) (a : Half) (v : Bool) (s : State) : Host.Outcome State Fault Refusal :=
  .next (encodeRequest .wrCoil [dev, 0x05, hi8 a, lo8 a, hi8 (coilWord v), lo8 (coilWord v)] s)

/-- ENC_WR_U16 (R106), format W4 with q = 1 (spec/30_encoding.md R68). -/
def execEncWrU16 (dev : Byte) (a : Half) (v : Half) (s : State) : Host.Outcome State Fault Refusal :=
  .next (encodeRequest .wrU16 ([dev, 0x10, hi8 a, lo8 a, 0x00, 0x01, 0x02] ++ halfBytes v) s)

/-- ENC_WR_F32 (R107), format W4 with q = 2 (spec/30_encoding.md R68). The 32 bits go on the wire unchanged (R76). -/
def execEncWrF32 (dev : Byte) (a : Half) (f : Word) (s : State) : Host.Outcome State Fault Refusal :=
  .next (encodeRequest .wrF32 ([dev, 0x10, hi8 a, lo8 a, 0x00, 0x02, 0x04] ++ wordBytes f) s)

end Sys2Proof.Machine
end

