-- ==== Sys2Proof/Machine/Response.lean ====
section
/-! DEFINITION. The frame decoder DEC (spec/42_decode.md R120 to R131). A check either returns, with the state so far, or
ends the command through `fail` (R120): `Except.ok` and `Except.error`. The order of the checks is the order of the text. -/

namespace Sys2Proof.Machine

/-- What a check answers: `ok`, the state the command goes on with; `error`, the state the command has ended in. -/
abbrev Check := Except State State

/-- The length check (R122). -/
def checkLength (rx : List Byte) (l : Nat) (s : State) : Check :=
  if rx.length ≠ l then .error (fail .shortRead s) else .ok s

/-- The address check (R123). -/
def checkAddress (rx : List Byte) (s : State) : Check :=
  if rxByte rx 0 ≠ s.txb[0] then .error (fail .addressMismatch s) else .ok s

/-- `c_rx = (rx[L-1] << 8) | rx[L-2]`, the received CRC, low byte first (R124, spec/20_memory.md R43). -/
def receivedCrc (rx : List Byte) (l : Nat) : Half := be16 (rxByte rx (l - 1)) (rxByte rx (l - 2))

/-- `c_calc = crc16(rx[0..L-3])`, the CRC over all bytes before the CRC field (R124). -/
def computedCrc (rx : List Byte) (l : Nat) : Half := crc16 (rx.take (l - 2))

/-- The CRC check (R124): under STRICT a mismatch fails, under LENIENT it is a warning and decoding goes on. -/
def checkCrc (rx : List Byte) (l : Nat) (s : State) : Check :=
  if computedCrc rx l ≠ receivedCrc rx l then
    match s.policy with
    | .strict => .error (fail .checksumMismatch s)
    | .lenient => .ok (warnCrc s)
  else .ok s

/-- The function-code check (R125). -/
def checkFunction (rx : List Byte) (s : State) : Check :=
  if rxByte rx 1 ≠ s.txb[1] then .error (fail .functionMismatch s) else .ok s

/-- Kind RD_COIL, response W5 (R127): bit 0 of the status byte. -/
def decodeRdCoil (rx : List Byte) (s : State) : Check :=
  if rxByte rx 2 ≠ 0x01 then .error (fail .unexpectedByteCount s)
  else .ok (deliver (BitVec.setWidth 32 (BitVec.ofBool (rxByte rx 3)[0])) s)

/-- Kind RD_U16, response W6 (R128): the register value, zero-extended. -/
def decodeRdU16 (rx : List Byte) (s : State) : Check :=
  if rxByte rx 2 ≠ 0x02 then .error (fail .unexpectedByteCount s)
  else .ok (deliver ((be16 (rxByte rx 3) (rxByte rx 4)).setWidth 32) s)

/-- Kind RD_F32, response W7 (R129): the binary32 pattern, unchanged. -/
def decodeRdF32 (rx : List Byte) (s : State) : Check :=
  if rxByte rx 2 ≠ 0x04 then .error (fail .unexpectedByteCount s)
  else .ok (deliver (be32 (rxByte rx 3) (rxByte rx 4) (rxByte rx 5) (rxByte rx 6)) s)

/-- Kind WR_COIL, response W8 (R130): bytes 2 to 5 echo the request's. -/
def decodeWrCoil (rx : List Byte) (s : State) : Check :=
  if rxByte rx 2 ≠ s.txb[2] ∨ rxByte rx 3 ≠ s.txb[3] ∨ rxByte rx 4 ≠ s.txb[4] ∨ rxByte rx 5 ≠ s.txb[5] then
    .error (fail .echoMismatch s)
  else .ok s

/-- Kinds WR_U16 and WR_F32, response W9 (R131): the quantity is the request's; the echoed address is not checked. -/
def decodeWrRegs (rx : List Byte) (s : State) : Check :=
  if be16 (rxByte rx 4) (rxByte rx 5) ≠ be16 s.txb[4] s.txb[5] then .error (fail .unexpectedByteCount s) else .ok s

/-- The kind-specific rule of the pending request (R121). -/
def decodeKind (rx : List Byte) (s : State) : Check :=
  match s.pendKind with
  | .rdCoil => decodeRdCoil rx s
  | .rdU16 => decodeRdU16 rx s
  | .rdF32 => decodeRdF32 rx s
  | .wrCoil => decodeWrCoil rx s
  | .wrU16 => decodeWrRegs rx s
  | .wrF32 => decodeWrRegs rx s

/-- The checks of DEC against the pending request, in order: length, address, CRC, function code, kind (R120, R121). -/
def checkResponse (rx : List Byte) (s : State) : Check := do
  let s ← checkLength rx s.pendKind.rlen s
  let s ← checkAddress rx s
  let s ← checkCrc rx s.pendKind.rlen s
  let s ← checkFunction rx s
  decodeKind rx s

/-- The end of DEC: STATUS <- OK when every check returned, and otherwise the state a check ended in (R120). -/
def concludeDec : Check → State
  | .ok s => finish .ok s
  | .error s => s

/-- DEC (R120). -/
def execDec (rx : List Byte) (s : State) : Host.Outcome State Fault Refusal :=
  .next (if s.pendValid then concludeDec (checkResponse rx (dropPending (clearOutcome s)))
    else finish .noPendingRequest (clearOutcome s))

end Sys2Proof.Machine
end

