-- ==== Sys2Proof/Machine/Dispatch.lean ====
section
/-! DEFINITION. One arm per command: the meaning of a command, after the decoder has taken its bytes from the stream. -/

namespace Sys2Proof.Machine

def exec (i : Instr) (s : State) : Host.Outcome State Fault Refusal :=
  match i with
  -- spec/43_config.md
  | .nop => Sys2Proof.Machine.execNop s
  -- spec/40_crc.md
  | .crcInit => Sys2Proof.Machine.execCrcInit s
  | .crcUpdate b => Sys2Proof.Machine.execCrcUpdate b s
  | .crcCompute buf => Sys2Proof.Machine.execCrcCompute buf s
  -- spec/43_config.md
  | .setPolicy p => Sys2Proof.Machine.execSetPolicy p s
  -- spec/41_encode.md
  | .encRdCoil dev a => Sys2Proof.Machine.execEncRdCoil dev a s
  | .encRdU16 dev a => Sys2Proof.Machine.execEncRdU16 dev a s
  | .encRdF32 dev a => Sys2Proof.Machine.execEncRdF32 dev a s
  | .encWrCoil dev a v => Sys2Proof.Machine.execEncWrCoil dev a v s
  | .encWrU16 dev a v => Sys2Proof.Machine.execEncWrU16 dev a v s
  | .encWrF32 dev a f => Sys2Proof.Machine.execEncWrF32 dev a f s
  -- spec/42_decode.md
  | .dec rx => Sys2Proof.Machine.execDec rx s
  -- spec/43_config.md
  | .illegal e => Sys2Proof.Machine.execIllegal e s

end Sys2Proof.Machine
end

