-- ==== Sys2Proof/Machine/Step.lean ====
section
/-! DEFINITION. One step of the block (spec/00_scope.md R11, spec/30_encoding.md R60 to R62): take the next command from the
head of the stream and run it. A command whose bytes are not all present is not started: no step, no state change. -/

namespace Sys2Proof.Machine

/-- One command, atomically (R11; spec/20_memory.md R48). The command's bytes leave the stream; the meaning writes the rest. -/
def step (s : State) : Host.Outcome State Fault Refusal :=
  match decode s.stream with
  | .ok (i, rest) => exec i { s with stream := rest }
  | .error .noCommand => .refused .awaitingCommand
  | .error .incompleteCommand => .refused .awaitingOperands

/-- The host issues one command, given as a word of spec/opcode_table.json, ahead of everything else on the stream: the next
step takes exactly its bytes (log entries 1 and 10). Nothing else changes. -/
def State.withFetchWord (s : State) (nbits w : Nat) : State :=
  { s with stream := tableCommandBytes nbits w ++ s.stream }

end Sys2Proof.Machine
end

