-- ==== Sys2Proof/Machine/Transaction.lean ====
section
/-! DEFINITION. The host's side: the four operations of the serial transport (spec/60_exceptions.md R176), the accessor scripts
(spec/30_encoding.md R84), the host's transaction and its outcomes (R177, R179). The transport is outside the block
(spec/00_scope.md R5): what it answers is an argument, any answer within the bounds of R176 and under no other law (D21; log
entry 9). Time does not pass in the model (spec/70_reset_and_hazards.md R206). -/

namespace Sys2Proof.Machine

/-- A call of one of the six typed accessors, with its operands (R84). -/
inductive Accessor where
  | readCoil (dev : Byte) (a : Half)
  | readU16 (dev : Byte) (a : Half)
  | readF32 (dev : Byte) (a : Half)
  | writeCoil (dev : Byte) (a : Half) (v : Bool)
  | writeU16 (dev : Byte) (a : Half) (v : Half)
  | writeF32 (dev : Byte) (a : Half) (f : Word)
  deriving DecidableEq, Repr

/-- The kind of an accessor (R84). -/
def Accessor.kind : Accessor → Kind
  | .readCoil _ _ => .rdCoil
  | .readU16 _ _ => .rdU16
  | .readF32 _ _ => .rdF32
  | .writeCoil _ _ _ => .wrCoil
  | .writeU16 _ _ _ => .wrU16
  | .writeF32 _ _ _ => .wrF32

/-- The encode command of an accessor, `ENC_<kind> dev, addr [, value]` (R84). -/
def Accessor.command : Accessor → Instr
  | .readCoil dev a => .encRdCoil dev a
  | .readU16 dev a => .encRdU16 dev a
  | .readF32 dev a => .encRdF32 dev a
  | .writeCoil dev a v => .encWrCoil dev a v
  | .writeU16 dev a v => .encWrU16 dev a v
  | .writeF32 dev a f => .encWrF32 dev a f

/-- What open gives the host, and the host gives the other operations: a name for the open port (R176; log entry 9). -/
abbrev Handle := Nat

/-- What the transport's open answers (R176). -/
inductive OpenAnswer where
  /-- The port is open. -/
  | handle (h : Handle)
  /-- OpenError. -/
  | openError
  deriving DecidableEq, Repr

/-- What the transport's write answers to `length` bytes (R176). -/
inductive WriteAnswer (length : Nat) where
  /-- The count of bytes written, at most `length`. -/
  | wrote (count : Fin (length + 1))
  /-- IOError. -/
  | ioError
  deriving DecidableEq, Repr

/-- What the transport's read answers to `expected` bytes asked for (R176). -/
structure ReadAnswer (expected : Nat) where
  /-- The bytes received, in order. With an IOError they are those received before it, possibly none (R177). -/
  bytes : List Byte
  /-- The read failed with IOError. -/
  ioError : Bool
  /-- From 0 to `expected` bytes. -/
  inRange : bytes.length ≤ expected
  /-- An IOError on receive is a short read (R177; spec/92_eei_decisions.md D21; log entry 9). -/
  failsShort : ioError = true → bytes.length < expected
  deriving DecidableEq, Repr

/-- The draws of the transport in one transaction of a kind (D21): what it answers to the write of TXB[0..TXLEN-1] and to the
read of RLEN(kind) bytes. -/
structure Transport (k : Kind) where
  write : WriteAnswer k.requestLength
  read : ReadAnswer k.rlen
  deriving DecidableEq, Repr

/-- open(portIdentifier) (R176): the host asks for a port with the line settings, and gets a handle or an OpenError, which it
classifies as PortOpenFailure (R160; spec/90_conflicts.md C9). -/
def openPort (_port : String) (_line : Config.LineSettings) : OpenAnswer → Except Status Handle
  | .handle h => .ok h
  | .openError => .error .portOpenFailure

/-- close(handle) (R176): the host gives the handle and gets nothing back. The block is not concerned. -/
def closePort (_h : Handle) (s : State) : State := s

/-- `IOError or w < TXLEN`: the frame was not sent whole (R177). -/
def WriteAnswer.short {n : Nat} (txlen : Nat) : WriteAnswer n → Bool
  | .wrote count => count.val < txlen
  | .ioError => true

/-- One line of an accessor's script (R84). -/
inductive HostAction where
  /-- A command of the block. -/
  | command (i : Instr)
  /-- HOST_SEND: write(handle, TXB[0..TXLEN-1]), with the deadline of the write. -/
  | send (handle : Handle) (deadline : Nat)
  /-- HOST_WAIT. -/
  | wait (interval : Nat)
  /-- HOST_RECV: read(handle, expectedLength), with the deadline of the read. -/
  | receive (handle : Handle) (expected deadline : Nat)
  /-- `DEC rx`, on the bytes received. -/
  | decode
  deriving DecidableEq, Repr

/-- The accessor's script on an open port: steps (a) to (g) of the source (R84). The read asks for exactly RLEN(kind) bytes
(spec/70_reset_and_hazards.md R205). -/
def accessorScript (h : Handle) (a : Accessor) : List HostAction :=
  [.command a.command,
   .send h (Config.writeTimeout a.kind.requestLength),
   .wait Config.settleInterval,
   .receive h a.kind.rlen (Config.readTimeout a.kind.rlen),
   .decode]

/-- What a transaction returns (R177). -/
inductive Report where
  /-- ShortWrite (0x9): the frame was not sent whole, and DEC was not issued. -/
  | shortWrite
  /-- STATUS, RESULT if RESULT_VALID, and CRC_WARN after DEC. -/
  | decoded (status : Status) (value : Option Word) (crcWarn : Bool)
  deriving DecidableEq, Repr

/-- The report the host reads from the block's registers (R177, R179). -/
def reportOf (s : State) : Report := .decoded s.status (if s.resultValid then some s.result else none) s.crcWarn

/-- What the host did: a command given to the block, a wait, or one of the four operations of the transport with all that the
host gives it (R176). -/
inductive HostEvent where
  /-- A command issued to the block. -/
  | command (i : Instr)
  /-- open(portIdentifier), with the line settings. -/
  | openPort (port : String) (line : Config.LineSettings)
  /-- write(handle, bytes), with its deadline. -/
  | write (handle : Handle) (bytes : List Byte) (deadline : Nat)
  /-- The settle wait. -/
  | wait (interval : Nat)
  /-- read(handle, expectedLength), with its deadline. -/
  | read (handle : Handle) (expected deadline : Nat)
  /-- close(handle). -/
  | close (handle : Handle)
  deriving DecidableEq, Repr

/-- The end of something the host did: the block's state, what the host reports, and what it did, in order. -/
structure Ended (ρ : Type) where
  block : State
  report : ρ
  events : List HostEvent
  deriving DecidableEq, Repr

/-- The host runs a script against the block and the transport's answers, with the bytes received and the events so far. It hands
the transport TXB[0..TXLEN-1] as it stands in the block (R177, spec/70_reset_and_hazards.md R204), and DEC the bytes received.
Its commands run on the block one at a time (R178 duty 4; log entry 11). -/
def runHost {k : Kind} (t : Transport k) :
    List HostAction → List Byte → List HostEvent → State → Host.Outcome (Ended Report) Fault Refusal
  | [], _, done, s => .next ⟨s, reportOf s, done⟩
  | .command i :: script, rx, done, s =>
    match exec i s with
    | .next s' => runHost t script rx (done ++ [.command i]) s'
    | .fault r => .fault r
    | .refused r => .refused r
  | .send h deadline :: script, rx, done, s =>
    if t.write.short s.txlen.toNat then .next ⟨s, .shortWrite, done ++ [.write h (txFrame s) deadline]⟩
    else runHost t script rx (done ++ [.write h (txFrame s) deadline]) s
  | .wait interval :: script, rx, done, s => runHost t script rx (done ++ [.wait interval]) s
  | .receive h expected deadline :: script, _, done, s =>
    runHost t script t.read.bytes (done ++ [.read h expected deadline]) s
  | .decode :: script, rx, done, s =>
    match exec (.dec rx) s with
    | .next s' => runHost t script rx (done ++ [.command (.dec rx)]) s'
    | .fault r => .fault r
    | .refused r => .refused r

/-- The host's transaction on an open port, one per typed accessor call (R177). -/
def transaction (h : Handle) (a : Accessor) (t : Transport a.kind) (s : State) :
    Host.Outcome (Ended Report) Fault Refusal :=
  runHost t (accessorScript h a) [] [] s

/-- An accessor call with the transport's answers to it. -/
structure Call where
  accessor : Accessor
  transport : Transport accessor.kind
  deriving DecidableEq, Repr

/-- Transactions on an open port, one after the other (R178 duty 4), with what each returns. -/
def runCalls (h : Handle) : List Call → State → Host.Outcome (Ended (List Report)) Fault Refusal
  | [], s => .next ⟨s, [], []⟩
  | c :: calls, s =>
    match transaction h c.accessor c.transport s with
    | .next e =>
      match runCalls h calls e.block with
      | .next rest => .next ⟨rest.block, e.report :: rest.report, e.events ++ rest.events⟩
      | .fault r => .fault r
      | .refused r => .refused r
    | .fault r => .fault r
    | .refused r => .refused r

/-- What the host has at the end of a session. -/
inductive SessionReport where
  /-- The port could not be opened: no transaction took place. -/
  | failed (code : Status)
  /-- What each transaction returned, the port closed after the last. -/
  | closed (reports : List Report)
  deriving DecidableEq, Repr

/-- The host's use of a port: open it first (spec/70_reset_and_hazards.md R192), make the calls, close it (R176). That the calls
stand between one open and one close is the model's arrangement of the four operations, log entry 9. -/
def session (port : String) (answer : OpenAnswer) (calls : List Call) (s : State) :
    Host.Outcome (Ended SessionReport) Fault Refusal :=
  match openPort port Config.lineSettings answer with
  | .error code => .next ⟨s, .failed code, [.openPort port Config.lineSettings]⟩
  | .ok h =>
    match runCalls h calls s with
    | .next e => .next ⟨closePort h e.block, .closed e.report,
        .openPort port Config.lineSettings :: (e.events ++ [.close h])⟩
    | .fault r => .fault r
    | .refused r => .refused r

end Sys2Proof.Machine
end

