-- ==== Sys2Proof/Safety.lean ====
section
/-! DEFINITION. The terms claims are stated in: what an encode command asks for, which commands write which element, what DEC
must report, the invariant of the block, and the effect of a list of commands. Nothing here is part of the machine. -/

namespace Sys2Proof

open Sys2Proof.Machine

/-- The kind and the body of the request an encode command builds (spec/41_encode.md R102 to R107; the wire formats W1 to W4 of
spec/30_encoding.md); none for any other command. -/
def Instr.request : Instr → Option (Kind × List Byte)
  | .nop => none
  | .crcInit => none
  | .crcUpdate _ => none
  | .crcCompute _ => none
  | .setPolicy _ => none
  | .encRdCoil dev a => some (.rdCoil, [dev, 0x01, hi8 a, lo8 a, 0x00, 0x01])
  | .encRdU16 dev a => some (.rdU16, [dev, 0x03, hi8 a, lo8 a, 0x00, 0x01])
  | .encRdF32 dev a => some (.rdF32, [dev, 0x03, hi8 a, lo8 a, 0x00, 0x02])
  | .encWrCoil dev a v => some (.wrCoil, [dev, 0x05, hi8 a, lo8 a, 0x00, if v then 0x01 else 0x00])
  | .encWrU16 dev a v => some (.wrU16, [dev, 0x10, hi8 a, lo8 a, 0x00, 0x01, 0x02, hi8 v, lo8 v])
  | .encWrF32 dev a f =>
    some (.wrF32, [dev, 0x10, hi8 a, lo8 a, 0x00, 0x02, 0x04,
      f.extractLsb' 24 8, f.extractLsb' 16 8, f.extractLsb' 8 8, f.extractLsb' 0 8])
  | .dec _ => none
  | .illegal _ => none

/-- An encode command (spec/41_encode.md). -/
def Instr.isEncode (i : Instr) : Bool := i.request.isSome

/-- A CRC engine command (spec/40_crc.md). -/
def Instr.isCrc : Instr → Bool
  | .crcInit => true
  | .crcUpdate _ => true
  | .crcCompute _ => true
  | _ => false

/-- DEC (spec/42_decode.md). -/
def Instr.isDec : Instr → Bool
  | .dec _ => true
  | _ => false

/-- SET_POLICY (spec/43_config.md R151). -/
def Instr.isSetPolicy : Instr → Bool
  | .setPolicy _ => true
  | _ => false

/-- An illegal command (spec/43_config.md R152). -/
def Instr.isIllegal : Instr → Bool
  | .illegal _ => true
  | _ => false

/-- The read kinds: those whose decode produces a value (spec/10_state.md R29). -/
def Machine.Kind.isRead : Kind → Bool
  | .rdCoil => true
  | .rdU16 => true
  | .rdF32 => true
  | .wrCoil => false
  | .wrU16 => false
  | .wrF32 => false

/-- `t` is `s` with the frame `f` latched as the pending request of kind `k`: the writes of `encode(kind, body)`
(spec/41_encode.md R100) and nothing else. -/
def RequestLatched (s t : State) (k : Kind) (f : List Byte) : Prop :=
  t.txb.toList = f ++ List.replicate (13 - f.length) 0x00 ∧
  t = { s with
    txb := t.txb
    txlen := BitVec.ofNat 4 f.length
    pendValid := true
    pendKind := k
    status := .noResult
    result := 0x00000000
    resultValid := false
    crcWarn := false }

/-- The CRC field of a response does not match its other bytes (spec/42_decode.md R124): the last two bytes, low byte first,
against the CRC of all bytes before them. -/
def crcMismatch (rx : List Byte) : Bool :=
  crc16 (rx.take (rx.length - 2)) != be16 (rxByte rx (rx.length - 1)) (rxByte rx (rx.length - 2))

/-- DEC reaches the function-code check with a CRC mismatch recorded as a warning (spec/42_decode.md R124). -/
def crcWarned (rx : List Byte) (s : State) : Bool :=
  s.pendValid && rx.length == s.pendKind.rlen && rxByte rx 0 == s.txb[0] && s.policy == .lenient && crcMismatch rx

/-- The last check of DEC, by kind (spec/42_decode.md R127 to R131). -/
def kindOutcome (rx : List Byte) (s : State) : Status :=
  match s.pendKind with
  | .rdCoil => if rxByte rx 2 = 0x01 then .ok else .unexpectedByteCount
  | .rdU16 => if rxByte rx 2 = 0x02 then .ok else .unexpectedByteCount
  | .rdF32 => if rxByte rx 2 = 0x04 then .ok else .unexpectedByteCount
  | .wrCoil =>
    if rxByte rx 2 = s.txb[2] ∧ rxByte rx 3 = s.txb[3] ∧ rxByte rx 4 = s.txb[4] ∧ rxByte rx 5 = s.txb[5] then .ok
    else .echoMismatch
  | .wrU16 => if rxByte rx 4 = s.txb[4] ∧ rxByte rx 5 = s.txb[5] then .ok else .unexpectedByteCount
  | .wrF32 => if rxByte rx 4 = s.txb[4] ∧ rxByte rx 5 = s.txb[5] then .ok else .unexpectedByteCount

/-- The code DEC reports: the first failing check in the order of spec/60_exceptions.md R163. -/
def decOutcome (rx : List Byte) (s : State) : Status :=
  if s.pendValid = false then .noPendingRequest
  else if rx.length ≠ s.pendKind.rlen then .shortRead
  else if rxByte rx 0 ≠ s.txb[0] then .addressMismatch
  else if s.policy = .strict ∧ crcMismatch rx = true then .checksumMismatch
  else if rxByte rx 1 ≠ s.txb[1] then .functionMismatch
  else kindOutcome rx s

/-- The invariant of the block: what every state reached from reset keeps. -/
structure Machine.State.Inv (s : State) : Prop where
  /-- With no frame built, TXB is all zero and no request is pending (spec/10_state.md R24, R26). -/
  noFrame : s.txlen = 0 → s.txb = Vector.replicate 13 0x00 ∧ s.pendValid = false
  /-- Otherwise TXB is exactly the sealed frame of a request of the kind in PEND_KIND, zeros after it, and TXLEN is its
  length (R24, R25, R27). -/
  frameBuilt : s.txlen ≠ 0 → ∃ i body, Instr.request i = some (s.pendKind, body) ∧
    s.txlen.toNat = s.pendKind.requestLength ∧
    s.txb.toList = frame body ++ List.replicate (13 - s.txlen.toNat) 0x00
  /-- While a request is pending no result stands, and STATUS is NoResult or what SET_POLICY or an illegal command wrote
  (R26, R28 to R31). -/
  pendingFresh : s.pendValid = true → s.resultValid = false ∧ s.crcWarn = false ∧
    (s.status = .noResult ∨ s.status = .ok ∨ s.status = .illegalCommand)
  /-- The host's own codes never stand in STATUS (spec/60_exceptions.md R160). -/
  statusOwn : s.status ≠ .shortWrite ∧ s.status ≠ .portOpenFailure
  /-- No value without RESULT_VALID (R29). -/
  noValue : s.resultValid = false → s.result = 0x00000000
  /-- A value stands only for a read kind, after a decode that was OK (R30). -/
  valueOfRead : s.resultValid = true → s.pendKind.isRead = true ∧ (s.status = .ok ∨ s.status = .illegalCommand)
  /-- A coil value is one bit, and a register value 16 bits (R29). -/
  valueRange : (s.pendKind = .rdCoil → s.result.toNat < 2) ∧ (s.pendKind = .rdU16 → s.result.toNat < 65536)
  /-- A warning stands only after a decode that went past the CRC check (R31). -/
  warnStatus : s.crcWarn = true → s.status = .ok ∨ s.status = .functionMismatch ∨ s.status = .unexpectedByteCount ∨
    s.status = .echoMismatch ∨ s.status = .illegalCommand

/-- The bytes of a list of commands, as the host issues them (spec/30_encoding.md R60). -/
def programBytes (is : List Instr) : List Byte := is.flatMap encode

/-- The effects of a list of commands one after the other, without the stream (spec/20_memory.md R49). -/
def runCommands : List Instr → State → Host.Outcome State Fault Refusal
  | [], s => .next s
  | i :: is, s =>
    match exec i s with
    | .next t => runCommands is t
    | .fault r => .fault r
    | .refused r => .refused r

/-- The states and reports in which an outcome ends, mapped; a stop stays as it is. -/
def mapNext {σ τ φ ρ : Type} (f : σ → τ) : Host.Outcome σ φ ρ → Host.Outcome τ φ ρ
  | .next s => .next (f s)
  | .fault r => .fault r
  | .refused r => .refused r

end Sys2Proof
end

