-- ==== Sys2Proof/Certificates/Slice0/Obligations.lean ====
section
/-! DEFINITION. The statements about the model. Each formalises a rule of spec/, named in its docstring. -/

open Sys2Proof Sys2Proof.Machine

/-! ### Reset -/

/-- R190: every element at its reset value. -/
def Obligations.ResetHoldsTheResetValues : Prop :=
  State.reset.acc = 0xFFFF ∧ State.reset.policy.code = 0 ∧ State.reset.txb.toList = List.replicate 13 0x00 ∧
  State.reset.txlen = 0 ∧ State.reset.pendValid = false ∧ State.reset.pendKind.code = 0 ∧
  State.reset.status.code = 0xF ∧ State.reset.result = 0x00000000 ∧ State.reset.resultValid = false ∧
  State.reset.crcWarn = false

/-- The invariant of the model holds at reset (R190 against R24 to R31). -/
def Obligations.ResetMeetsTheInvariant : Prop := State.reset.Inv

/-- R191: reset from any state sets every element of R190, and a DEC after it reports NoPendingRequest. That the stream stays
is the model's own reading, log entry 4. -/
def Obligations.HostResetDiscardsThePendingRequest : Prop :=
  ∀ (s : State) (rx : List Byte),
    hostReset s = { State.reset with stream := s.stream } ∧
    exec (.dec rx) (hostReset s) = .next { hostReset s with status := .noPendingRequest }

/-! ### The command encoding -/

/-- Words of spec/opcode_table.json and of spec/95_test_vectors.md, written out byte by byte. -/
def Obligations.TableWordsDecode : Prop :=
  decodeTableWord 8 0x00 = some .nop ∧
  decodeTableWord 8 0x01 = some .crcInit ∧
  decode [0x02, 0x84] = .ok (.crcUpdate 0x84, []) ∧
  decode [0x03, 0x06, 0x01, 0x03, 0x00, 0x00, 0x00, 0x01] = .ok (.crcCompute [0x01, 0x03, 0x00, 0x00, 0x00, 0x01], []) ∧
  decodeTableWord 16 0x0104 = some (.setPolicy .lenient) ∧
  decode [0x10, 0xF7, 0xFF, 0xFF] = .ok (.encRdCoil 0xF7 0xFFFF, []) ∧
  decode [0x11, 0x01, 0x0A, 0x34] = .ok (.encRdU16 0x01 0x0A34, []) ∧
  decodeTableWord 32 0x340A0112 = some (.encRdF32 0x01 0x0A34) ∧
  decode [0x13, 0x01, 0x00, 0x00, 0x01] = .ok (.encWrCoil 0x01 0x0000 true, []) ∧
  decode [0x14, 0x01, 0x00, 0x00, 0x00, 0x01] = .ok (.encWrU16 0x01 0x0000 0x0001, []) ∧
  decode [0x15, 0x01, 0x0A, 0x34, 0x40, 0x1D, 0xE3, 0x54] = .ok (.encWrF32 0x01 0x0A34 0x401DE354, []) ∧
  decode [0x20, 0x03, 0x01, 0x02, 0x03] = .ok (.dec [0x01, 0x02, 0x03], []) ∧
  decode [0x7E] = .ok (.illegal (.opcode 0x7E), [])

/-- R63: the command map, row by row: opcode, operand bytes, the bytes left after them, the length and the kind latched. -/
def Obligations.CommandMapDecodes : Prop :=
  (∀ rest, decode (0x00 :: rest) = .ok (.nop, rest)) ∧
  (∀ rest, decode (0x01 :: rest) = .ok (.crcInit, rest)) ∧
  (∀ b rest, decode (0x02 :: b :: rest) = .ok (.crcUpdate b, rest)) ∧
  (∀ n buf rest, buf.length = n.toNat → decode (0x03 :: n :: (buf ++ rest)) = .ok (.crcCompute buf, rest)) ∧
  (∀ rest, decode (0x04 :: 0x00 :: rest) = .ok (.setPolicy .strict, rest)) ∧
  (∀ rest, decode (0x04 :: 0x01 :: rest) = .ok (.setPolicy .lenient, rest)) ∧
  (∀ dev aH aL rest, decode (0x10 :: dev :: aH :: aL :: rest) = .ok (.encRdCoil dev (be16 aH aL), rest)) ∧
  (∀ dev aH aL rest, decode (0x11 :: dev :: aH :: aL :: rest) = .ok (.encRdU16 dev (be16 aH aL), rest)) ∧
  (∀ dev aH aL rest, decode (0x12 :: dev :: aH :: aL :: rest) = .ok (.encRdF32 dev (be16 aH aL), rest)) ∧
  (∀ dev aH aL rest, decode (0x13 :: dev :: aH :: aL :: 0x00 :: rest) = .ok (.encWrCoil dev (be16 aH aL) false, rest)) ∧
  (∀ dev aH aL rest, decode (0x13 :: dev :: aH :: aL :: 0x01 :: rest) = .ok (.encWrCoil dev (be16 aH aL) true, rest)) ∧
  (∀ dev aH aL vH vL rest, decode (0x14 :: dev :: aH :: aL :: vH :: vL :: rest) =
    .ok (.encWrU16 dev (be16 aH aL) (be16 vH vL), rest)) ∧
  (∀ dev aH aL f3 f2 f1 f0 rest, decode (0x15 :: dev :: aH :: aL :: f3 :: f2 :: f1 :: f0 :: rest) =
    .ok (.encWrF32 dev (be16 aH aL) (be32 f3 f2 f1 f0), rest)) ∧
  (∀ n rx rest, rx.length = n.toNat → decode (0x20 :: n :: (rx ++ rest)) = .ok (.dec rx, rest)) ∧
  (∀ dev a s, ∃ t, exec (.encRdCoil dev a) s = .next t ∧ t.pendKind = .rdCoil) ∧
  (∀ dev a s, ∃ t, exec (.encRdU16 dev a) s = .next t ∧ t.pendKind = .rdU16) ∧
  (∀ dev a s, ∃ t, exec (.encRdF32 dev a) s = .next t ∧ t.pendKind = .rdF32) ∧
  (∀ dev a v s, ∃ t, exec (.encWrCoil dev a v) s = .next t ∧ t.pendKind = .wrCoil) ∧
  (∀ dev a v s, ∃ t, exec (.encWrU16 dev a v) s = .next t ∧ t.pendKind = .wrU16) ∧
  (∀ dev a f s, ∃ t, exec (.encWrF32 dev a f) s = .next t ∧ t.pendKind = .wrF32)

/-- Decode and encode agree: a well-formed command is read back with every operand, and the bytes after it are left (R60, R61,
R63, R64). -/
def Obligations.DecodingAnEncodedCommandGivesItBack : Prop :=
  ∀ (i : Instr) (rest : List Byte), i.wellFormed = true → decode (encode i ++ rest) = .ok (i, rest)

/-- The other direction: whatever decodes is the encoding of a well-formed command, so a byte string has one reading
(R60, R61, R63, R64). -/
def Obligations.EveryDecodedCommandIsItsEncoding : Prop :=
  ∀ (bs : List Byte) (i : Instr) (rest : List Byte), decode bs = .ok (i, rest) → i.wellFormed = true ∧ bs = encode i ++ rest

/-- A step runs the decoded command: on the bytes at the head of the stream, `step` is `exec` of it with the bytes after it left
on the stream (R11, R60). -/
def Obligations.StepRunsTheDecodedCommand : Prop :=
  ∀ (s : State) (i : Instr) (rest : List Byte),
    decode s.stream = .ok (i, rest) → step s = exec i { s with stream := rest }

/-- R62: a command whose bytes are not all present is not started, and when the rest arrives it runs. An answer `refused` is no
step: there is no next state. That an empty stream waits under a name of its own is the model's choice, log entry 2. -/
def Obligations.TruncatedCommandIsNotStarted : Prop :=
  ∀ (i : Instr) (k : Nat) (s : State), i.wellFormed = true → k < (encode i).length → s.stream = (encode i).take k →
    step s = .refused (if k = 0 then .awaitingCommand else .awaitingOperands) ∧
    ∀ more, step (hostIssue ((encode i).drop k ++ more) s) = exec i { s with stream := more }

/-- R64, R152: which encodings are illegal, how many bytes each consumes, and that they write STATUS only. -/
def Obligations.IllegalEncodingsSetStatusOnly : Prop :=
  (∀ op : Byte, opcodeOf op = none ↔
    (0x05 ≤ op.toNat ∧ op.toNat ≤ 0x0F) ∨ (0x16 ≤ op.toNat ∧ op.toNat ≤ 0x1F) ∨ 0x21 ≤ op.toNat) ∧
  (∀ (op : Byte) (s : State) (rest : List Byte),
    (0x05 ≤ op.toNat ∧ op.toNat ≤ 0x0F) ∨ (0x16 ≤ op.toNat ∧ op.toNat ≤ 0x1F) ∨ 0x21 ≤ op.toNat →
    step { s with stream := op :: rest } = .next { s with stream := rest, status := .illegalCommand }) ∧
  (∀ (p : Byte) (s : State) (rest : List Byte), p ≠ 0x00 → p ≠ 0x01 →
    step { s with stream := 0x04 :: p :: rest } = .next { s with stream := rest, status := .illegalCommand }) ∧
  (∀ (dev aH aL v : Byte) (s : State) (rest : List Byte), v ≠ 0x00 → v ≠ 0x01 →
    step { s with stream := 0x13 :: dev :: aH :: aL :: v :: rest } =
      .next { s with stream := rest, status := .illegalCommand }) ∧
  (∀ (e : IllegalForm) (s : State), exec (.illegal e) s = .next { s with status := .illegalCommand }) ∧
  Status.illegalCommand.code = 0x8

/-! ### Configuration and control -/

/-- R150: NOP changes nothing. -/
def Obligations.NopChangesNothing : Prop :=
  ∀ (s : State) (rest : List Byte),
    exec .nop s = .next s ∧ step { s with stream := 0x00 :: rest } = .next { s with stream := rest }

/-- R151: SET_POLICY writes POLICY and STATUS and nothing else, another operand is IllegalCommand, and the DEC after it reads the
new policy. -/
def Obligations.SetPolicyWritesPolicyAndStatus : Prop :=
  Policy.strict.code = 0 ∧ Policy.lenient.code = 1 ∧ Status.ok.code = 0x0 ∧
  (∀ (p : Policy) (s : State), exec (.setPolicy p) s = .next { s with policy := p, status := .ok }) ∧
  (∀ (s : State) (rest : List Byte),
    step { s with stream := 0x04 :: 0x00 :: rest } = .next { s with stream := rest, policy := .strict, status := .ok } ∧
    step { s with stream := 0x04 :: 0x01 :: rest } = .next { s with stream := rest, policy := .lenient, status := .ok }) ∧
  (∀ (p : Byte) (s : State) (rest : List Byte), p ≠ 0x00 → p ≠ 0x01 →
    step { s with stream := 0x04 :: p :: rest } = .next { s with stream := rest, status := .illegalCommand }) ∧
  (∀ (p : Policy) (rx : List Byte) (s : State),
    runCommands [.setPolicy p, .dec rx] s = exec (.dec rx) { s with policy := p, status := .ok })

/-! ### The CRC engine -/

/-- R90: the step function, its eight iterations written out. -/
def Obligations.CrcStepIsEightShifts : Prop :=
  ∀ (acc : Half) (b : Byte) (f : Half → Half),
    (∀ x : Half, f x = if x[0] = true then (x >>> 1) ^^^ 0xA001 else x >>> 1) →
    crcStep acc b = f (f (f (f (f (f (f (f (acc ^^^ b.setWidth 16))))))))

/-- R91: crc16 runs from the seed, one step a byte, with nothing after it. -/
def Obligations.CrcRunsFromTheSeed : Prop :=
  crc16 [] = 0xFFFF ∧ ∀ (buf : List Byte) (b : Byte), crc16 (buf ++ [b]) = crcStep (crc16 buf) b

/-- R92: CRC_INIT writes the seed to ACC and nothing else. -/
def Obligations.CrcInitWritesTheSeed : Prop :=
  (∀ rest, decode (0x01 :: rest) = .ok (.crcInit, rest)) ∧
  ∀ s : State, exec .crcInit s = .next { s with acc := 0xFFFF }

/-- R93: CRC_UPDATE steps ACC by one byte from whatever it holds, and writes nothing else. -/
def Obligations.CrcUpdateStepsAcc : Prop :=
  (∀ b rest, decode (0x02 :: b :: rest) = .ok (.crcUpdate b, rest)) ∧
  (∀ (b : Byte) (s : State), exec (.crcUpdate b) s = .next { s with acc := crcStep s.acc b }) ∧
  crcStep 0x0000 0x00 = 0x0000 ∧ crcStep 0xFFFF 0xFF = 0x00FF ∧ crcStep 0xFFFF 0x01 = 0x807E

/-- R94: CRC_COMPUTE leaves crc16 of its operand in ACC, as CRC_INIT and one CRC_UPDATE a byte would; a whole frame leaves 0. -/
def Obligations.CrcComputeEqualsStreaming : Prop :=
  (∀ n buf rest, buf.length = n.toNat → decode (0x03 :: n :: (buf ++ rest)) = .ok (.crcCompute buf, rest)) ∧
  (∀ (buf : List Byte) (s : State), exec (.crcCompute buf) s = .next { s with acc := crc16 buf }) ∧
  (∀ (buf : List Byte) (s : State),
    runCommands (.crcInit :: buf.map .crcUpdate) s = exec (.crcCompute buf) s) ∧
  (∀ s : State, exec (.crcCompute []) s = .next { s with acc := 0xFFFF }) ∧
  (∀ (body : List Byte) (s : State),
    exec (.crcCompute (body ++ [lo8 (crc16 body), hi8 (crc16 body)])) s = .next { s with acc := 0x0000 }) ∧
  (∀ s : State, exec (.crcCompute [0x01, 0x03, 0x00, 0x00, 0x00, 0x01]) s = .next { s with acc := 0x0A84 })

/-- R96: the residue of a frame is zero, and testing the residue gives the same verdict as comparing the CRC field. -/
def Obligations.ResidueTestEqualsFieldTest : Prop :=
  (∀ body : List Byte, crc16 (body ++ [lo8 (crc16 body), hi8 (crc16 body)]) = 0x0000) ∧
  ∀ (body : List Byte) (cl ch : Byte), crc16 (body ++ [cl, ch]) = 0x0000 ↔ crc16 body = be16 ch cl

/-- R201: a second streaming computation that omits CRC_INIT gives the CRC of both streams together; CRC_COMPUTE has no such
hazard. -/
def Obligations.OmittedCrcInitConcatenates : Prop :=
  ∀ (xs ys : List Byte) (s : State),
    runCommands ((.crcInit :: xs.map .crcUpdate) ++ ys.map .crcUpdate) s = .next { s with acc := crc16 (xs ++ ys) } ∧
    runCommands ((.crcInit :: xs.map .crcUpdate) ++ [.crcCompute ys]) s = .next { s with acc := crc16 ys }

/-- Changing any one byte of a sequence changes its CRC (spec/90_conflicts.md C10, spec/95_test_vectors.md S6). -/
def Obligations.OneChangedByteChangesTheCrc : Prop :=
  ∀ (before after : List Byte) (b b' : Byte), b ≠ b' → crc16 (before ++ b :: after) ≠ crc16 (before ++ b' :: after)

/-! ### Fields -/

/-- R75 and the float fields of R76: writing a field and reading it back gives it, in both directions, and the first byte is
the most significant. -/
def Obligations.FieldsAreBigEndian : Prop :=
  (∀ v : Half, be16 (hi8 v) (lo8 v) = v) ∧
  (∀ x y : Byte, hi8 (be16 x y) = x ∧ lo8 (be16 x y) = y ∧ (be16 x y).toNat = 256 * x.toNat + y.toNat) ∧
  (∀ v : Half, halfBytes v = [hi8 v, lo8 v]) ∧
  (∀ f : Word, be32 (f.extractLsb' 24 8) (f.extractLsb' 16 8) (f.extractLsb' 8 8) (f.extractLsb' 0 8) = f) ∧
  (∀ a b c d : Byte, wordBytes (be32 a b c d) = [a, b, c, d] ∧
    (be32 a b c d).toNat = 16777216 * a.toNat + 65536 * b.toNat + 256 * c.toNat + d.toNat)

/-! ### The frame encoder -/

/-- R102: ENC_RD_COIL. -/
def Obligations.EncRdCoilBuildsItsRequest : Prop :=
  (∀ dev aH aL rest, decode (0x10 :: dev :: aH :: aL :: rest) = .ok (.encRdCoil dev (be16 aH aL), rest)) ∧
  (∀ (dev : Byte) (a : Half) (s : State), ∃ t, exec (.encRdCoil dev a) s = .next t ∧ t.txlen = 8 ∧
    RequestLatched s t .rdCoil (frame [dev, 0x01, hi8 a, lo8 a, 0x00, 0x01])) ∧
  Kind.rdCoil.rlen = 6 ∧
  frame [0x01, 0x01, 0x00, 0x00, 0x00, 0x01] = [0x01, 0x01, 0x00, 0x00, 0x00, 0x01, 0xFD, 0xCA]

/-- R103: ENC_RD_U16. -/
def Obligations.EncRdU16BuildsItsRequest : Prop :=
  (∀ dev aH aL rest, decode (0x11 :: dev :: aH :: aL :: rest) = .ok (.encRdU16 dev (be16 aH aL), rest)) ∧
  (∀ (dev : Byte) (a : Half) (s : State), ∃ t, exec (.encRdU16 dev a) s = .next t ∧ t.txlen = 8 ∧
    RequestLatched s t .rdU16 (frame [dev, 0x03, hi8 a, lo8 a, 0x00, 0x01])) ∧
  Kind.rdU16.rlen = 7 ∧
  frame [0x01, 0x03, 0x0A, 0x34, 0x00, 0x01] = [0x01, 0x03, 0x0A, 0x34, 0x00, 0x01, 0xC6, 0x1C]

/-- R104: ENC_RD_F32. -/
def Obligations.EncRdF32BuildsItsRequest : Prop :=
  (∀ dev aH aL rest, decode (0x12 :: dev :: aH :: aL :: rest) = .ok (.encRdF32 dev (be16 aH aL), rest)) ∧
  (∀ (dev : Byte) (a : Half) (s : State), ∃ t, exec (.encRdF32 dev a) s = .next t ∧ t.txlen = 8 ∧
    RequestLatched s t .rdF32 (frame [dev, 0x03, hi8 a, lo8 a, 0x00, 0x02])) ∧
  Kind.rdF32.rlen = 9 ∧
  frame [0x01, 0x03, 0x0A, 0x34, 0x00, 0x02] = [0x01, 0x03, 0x0A, 0x34, 0x00, 0x02, 0x86, 0x1D]

/-- R105: ENC_WR_COIL; TRUE goes on the wire as `00 01`, and another operand byte is IllegalCommand. -/
def Obligations.EncWrCoilBuildsItsRequest : Prop :=
  (∀ dev aH aL rest,
    decode (0x13 :: dev :: aH :: aL :: 0x00 :: rest) = .ok (.encWrCoil dev (be16 aH aL) false, rest) ∧
    decode (0x13 :: dev :: aH :: aL :: 0x01 :: rest) = .ok (.encWrCoil dev (be16 aH aL) true, rest)) ∧
  (∀ (dev aH aL v : Byte) (s : State) (rest : List Byte), v ≠ 0x00 → v ≠ 0x01 →
    step { s with stream := 0x13 :: dev :: aH :: aL :: v :: rest } =
      .next { s with stream := rest, status := .illegalCommand }) ∧
  (∀ (dev : Byte) (a : Half) (v : Bool) (s : State), ∃ t, exec (.encWrCoil dev a v) s = .next t ∧ t.txlen = 8 ∧
    RequestLatched s t .wrCoil (frame [dev, 0x05, hi8 a, lo8 a, 0x00, if v then 0x01 else 0x00])) ∧
  Kind.wrCoil.rlen = 8 ∧
  frame [0x01, 0x05, 0x00, 0x00, 0x00, 0x01] = [0x01, 0x05, 0x00, 0x00, 0x00, 0x01, 0x0C, 0x0A] ∧
  frame [0x01, 0x05, 0x00, 0x00, 0x00, 0x00] = [0x01, 0x05, 0x00, 0x00, 0x00, 0x00, 0xCD, 0xCA]

/-- R106: ENC_WR_U16. -/
def Obligations.EncWrU16BuildsItsRequest : Prop :=
  (∀ dev aH aL vH vL rest, decode (0x14 :: dev :: aH :: aL :: vH :: vL :: rest) =
    .ok (.encWrU16 dev (be16 aH aL) (be16 vH vL), rest)) ∧
  (∀ (dev : Byte) (a v : Half) (s : State), ∃ t, exec (.encWrU16 dev a v) s = .next t ∧ t.txlen = 11 ∧
    RequestLatched s t .wrU16 (frame [dev, 0x10, hi8 a, lo8 a, 0x00, 0x01, 0x02, hi8 v, lo8 v])) ∧
  Kind.wrU16.rlen = 8 ∧
  frame [0x01, 0x10, 0x00, 0x00, 0x00, 0x01, 0x02, 0x00, 0x01] =
    [0x01, 0x10, 0x00, 0x00, 0x00, 0x01, 0x02, 0x00, 0x01, 0x67, 0x90]

/-- R107: ENC_WR_F32. -/
def Obligations.EncWrF32BuildsItsRequest : Prop :=
  (∀ dev aH aL f3 f2 f1 f0 rest, decode (0x15 :: dev :: aH :: aL :: f3 :: f2 :: f1 :: f0 :: rest) =
    .ok (.encWrF32 dev (be16 aH aL) (be32 f3 f2 f1 f0), rest)) ∧
  (∀ (dev : Byte) (a : Half) (f : Word) (s : State), ∃ t, exec (.encWrF32 dev a f) s = .next t ∧ t.txlen = 13 ∧
    RequestLatched s t .wrF32 (frame [dev, 0x10, hi8 a, lo8 a, 0x00, 0x02, 0x04,
      f.extractLsb' 24 8, f.extractLsb' 16 8, f.extractLsb' 8 8, f.extractLsb' 0 8])) ∧
  Kind.wrF32.rlen = 8 ∧
  frame [0x01, 0x10, 0x0A, 0x34, 0x00, 0x02, 0x04, 0x40, 0x1D, 0xE3, 0x54] =
    [0x01, 0x10, 0x0A, 0x34, 0x00, 0x02, 0x04, 0x40, 0x1D, 0xE3, 0x54, 0x42, 0xE1]

/-- R100: every encode command builds its frame, latches it as the pending request whatever was pending, clears the result
registers and changes nothing else. -/
def Obligations.EveryEncodeLatchesItsFrame : Prop :=
  ∀ (i : Instr) (k : Kind) (body : List Byte) (s : State), i.request = some (k, body) →
    (body.length + 2 = 8 ∨ body.length + 2 = 11 ∨ body.length + 2 = 13) ∧
    ∃ t, exec i s = .next t ∧ RequestLatched s t k (body ++ [lo8 (crc16 body), hi8 (crc16 body)])

/-- R25: after an encode command the last two bytes of the frame are its CRC, low byte first, and no other command writes
TXB. -/
def Obligations.FramesEndInTheirCrc : Prop :=
  ∀ (i : Instr) (s : State), ∃ t, exec i s = .next t ∧
    (i.isEncode = true →
      t.txb.toList.getD (t.txlen.toNat - 2) 0 = lo8 (crc16 (t.txb.toList.take (t.txlen.toNat - 2))) ∧
      t.txb.toList.getD (t.txlen.toNat - 1) 0 = hi8 (crc16 (t.txb.toList.take (t.txlen.toNat - 2)))) ∧
    (i.isEncode = false → t.txb = s.txb ∧ t.txlen = s.txlen)

/-! ### State rules over all commands -/

/-- R11: no command faults or refuses; a step either completes a command or starts none. That a step that starts none is the
answer `refused`, `awaitingCommand` on an empty stream and `awaitingOperands` on the beginning of a command, is the model's choice,
log entry 2. -/
def Obligations.EveryCommandCompletes : Prop :=
  (∀ (i : Instr) (s : State), ∃ t, exec i s = .next t) ∧
  ∀ s : State,
    (∃ i rest t, i.wellFormed = true ∧ s.stream = encode i ++ rest ∧ step s = .next t ∧ t.stream = rest) ∨
    (step s = .refused .awaitingCommand ∧ s.stream = []) ∨
    (step s = .refused .awaitingOperands ∧ s.stream ≠ [])

/-- The state summary of spec/10_state.md §8: each element changes only by the commands listed as its writers. This is the frame
of every command; `stream` is the model's own field, log entry 1. -/
def Obligations.ElementsChangeOnlyByTheirWriters : Prop :=
  ∀ (i : Instr) (s : State), ∃ t, exec i s = .next t ∧
    (i.isCrc = false → t.acc = s.acc) ∧
    (i.isSetPolicy = false → t.policy = s.policy) ∧
    (i.isEncode = false → t.txb = s.txb ∧ t.txlen = s.txlen ∧ t.pendKind = s.pendKind) ∧
    (i.isEncode = false → i.isDec = false → t.pendValid = s.pendValid ∧ t.result = s.result ∧
      t.resultValid = s.resultValid ∧ t.crcWarn = s.crcWarn) ∧
    (i.isEncode = false → i.isDec = false → i.isSetPolicy = false → i.isIllegal = false → t.status = s.status) ∧
    t.stream = s.stream

/-- R22: ACC is the CRC commands' alone: they write it, and no encode command and no DEC reads or writes it. -/
def Obligations.AccIsTheCrcCommandsAlone : Prop :=
  State.reset.acc = 0xFFFF ∧
  (∀ s : State, exec .crcInit s = .next { s with acc := 0xFFFF }) ∧
  (∀ (b : Byte) (s : State), exec (.crcUpdate b) s = .next { s with acc := crcStep s.acc b }) ∧
  (∀ (buf : List Byte) (s : State), exec (.crcCompute buf) s = .next { s with acc := crc16 buf }) ∧
  ∀ (i : Instr) (s : State) (v : Half), i.isEncode = true ∨ i.isDec = true →
    ∃ t, exec i s = .next t ∧ t.acc = s.acc ∧ exec i { s with acc := v } = .next { t with acc := v }

/-- R26: PEND_VALID is set by every encode command, cleared by every DEC whatever its outcome, and left by every other. -/
def Obligations.PendValidFromEncodeToDec : Prop :=
  State.reset.pendValid = false ∧
  ∀ (i : Instr) (s : State), ∃ t, exec i s = .next t ∧
    t.pendValid = (if i.isEncode = true then true else if i.isDec = true then false else s.pendValid)

/-- R27: the table of the kinds, and that only the encode commands write PEND_KIND, with the kind of their request. -/
def Obligations.PendKindNamesTheRequest : Prop :=
  (Kind.rdCoil.code = 0 ∧ Kind.rdCoil.functionCode = 0x01 ∧ Kind.rdCoil.rlen = 6) ∧
  (Kind.rdU16.code = 1 ∧ Kind.rdU16.functionCode = 0x03 ∧ Kind.rdU16.rlen = 7) ∧
  (Kind.rdF32.code = 2 ∧ Kind.rdF32.functionCode = 0x03 ∧ Kind.rdF32.rlen = 9) ∧
  (Kind.wrCoil.code = 3 ∧ Kind.wrCoil.functionCode = 0x05 ∧ Kind.wrCoil.rlen = 8) ∧
  (Kind.wrU16.code = 4 ∧ Kind.wrU16.functionCode = 0x10 ∧ Kind.wrU16.rlen = 8) ∧
  (Kind.wrF32.code = 5 ∧ Kind.wrF32.functionCode = 0x10 ∧ Kind.wrF32.rlen = 8) ∧
  State.reset.pendKind.code = 0 ∧
  ∀ (i : Instr) (s : State), ∃ t, exec i s = .next t ∧
    (∀ k body, i.request = some (k, body) → t.pendKind = k ∧ t.txb[1] = k.functionCode ∧
      (k = .rdCoil ∨ k = .rdU16 ∨ k = .wrU16 → be16 t.txb[4] t.txb[5] = 1) ∧
      (k = .rdF32 ∨ k = .wrF32 → be16 t.txb[4] t.txb[5] = 2)) ∧
    (i.isEncode = false → t.pendKind = s.pendKind)

/-- R28: what each command writes to STATUS. -/
def Obligations.StatusHoldsTheLastOutcome : Prop :=
  State.reset.status = .noResult ∧ Status.noResult.code = 0xF ∧
  ∀ (i : Instr) (s : State), ∃ t, exec i s = .next t ∧
    (i.isEncode = true → t.status = .noResult) ∧
    (∀ rx, i = .dec rx → t.status = decOutcome rx s) ∧
    (i.isSetPolicy = true → t.status = .ok) ∧
    (i.isIllegal = true → t.status = .illegalCommand) ∧
    (i = .nop ∨ i.isCrc = true → t.status = s.status)

/-- R160: the codes, and that the block never writes the host's codes. -/
def Obligations.StatusCodesAndTheHostsOwn : Prop :=
  Status.ok.code = 0x0 ∧ Status.shortRead.code = 0x1 ∧ Status.addressMismatch.code = 0x2 ∧
  Status.checksumMismatch.code = 0x3 ∧ Status.functionMismatch.code = 0x4 ∧ Status.unexpectedByteCount.code = 0x5 ∧
  Status.echoMismatch.code = 0x6 ∧ Status.noPendingRequest.code = 0x7 ∧ Status.illegalCommand.code = 0x8 ∧
  Status.shortWrite.code = 0x9 ∧ Status.portOpenFailure.code = 0xA ∧ Status.noResult.code = 0xF ∧
  (∀ x : Status, x.code.toNat ≤ 0xA ∨ x.code.toNat = 0xF) ∧
  ∀ (i : Instr) (s : State), s.status ≠ .shortWrite → s.status ≠ .portOpenFailure →
    ∃ t, exec i s = .next t ∧ t.status ≠ .shortWrite ∧ t.status ≠ .portOpenFailure

/-- R29, R30: RESULT_VALID is 1 exactly after a DEC that decoded a read kind with STATUS = OK, and with no value RESULT is 0. -/
def Obligations.ResultValidAfterReadDecode : Prop :=
  State.reset.resultValid = false ∧ State.reset.result = 0x00000000 ∧
  ∀ (i : Instr) (s : State), ∃ t, exec i s = .next t ∧
    (i.isEncode = true → t.resultValid = false ∧ t.result = 0x00000000) ∧
    (i.isDec = true → (t.resultValid = true ↔ t.status = .ok ∧ s.pendKind.isRead = true) ∧
      (t.resultValid = false → t.result = 0x00000000)) ∧
    (i.isEncode = false → i.isDec = false → t.resultValid = s.resultValid ∧ t.result = s.result)

/-- R31: CRC_WARN is set by a DEC whose CRC check, under LENIENT, finds a mismatch; a DEC that does not reach it, and every
encode command, leaves 0. -/
def Obligations.CrcWarnMarksALenientMismatch : Prop :=
  State.reset.crcWarn = false ∧
  ∀ (i : Instr) (s : State), ∃ t, exec i s = .next t ∧
    (i.isEncode = true → t.crcWarn = false) ∧
    (∀ rx, i = .dec rx → t.crcWarn = crcWarned rx s) ∧
    (i.isEncode = false → i.isDec = false → t.crcWarn = s.crcWarn)

/-- The invariant is kept by every step from every state that has it (R24 to R31, R100, R120). -/
def Obligations.EveryStepKeepsTheInvariant : Prop :=
  ∀ s t : State, s.Inv → step s = .next t → t.Inv

/-- R49: the commands the host issues take effect one at a time in its order, each seeing every effect of the earlier ones and
none of the later ones: a run over their bytes is the sequence of their effects, whatever bytes follow. -/
def Obligations.CommandsTakeEffectInOrder : Prop :=
  ∀ (is : List Instr) (rest : List Byte) (s : State), (∀ i ∈ is, i.wellFormed = true) →
    s.stream = programBytes is ++ rest →
    Host.Core.run Sys2Proof.core is.length s = runCommands is { s with stream := rest }

/-! ### The frame decoder -/

/-- R120, R132: DEC with no pending request reports NoPendingRequest, clears the result registers and reads no byte of its
operand. -/
def Obligations.DecWithoutARequestReportsIt : Prop :=
  ∀ (rx : List Byte) (s : State), s.pendValid = false →
    exec (.dec rx) s = .next { s with status := .noPendingRequest, result := 0x00000000, resultValid := false, crcWarn := false }

/-- R122: any other length than the expected one is ShortRead, before any byte is looked at. -/
def Obligations.WrongLengthIsShortRead : Prop :=
  ∀ (rx : List Byte) (s : State), s.pendValid = true → rx.length ≠ s.pendKind.rlen →
    exec (.dec rx) s = .next { s with
      pendValid := false, status := .shortRead, result := 0x00000000, resultValid := false, crcWarn := false }

/-- R123: another device address is AddressMismatch under both policies, whatever the CRC. -/
def Obligations.WrongDeviceIsAddressMismatch : Prop :=
  ∀ (rx : List Byte) (s : State), s.pendValid = true → rx.length = s.pendKind.rlen → rxByte rx 0 ≠ s.txb[0] →
    exec (.dec rx) s = .next { s with
      pendValid := false, status := .addressMismatch, result := 0x00000000, resultValid := false, crcWarn := false }

/-- R124: under STRICT a CRC mismatch is ChecksumMismatch; under LENIENT it sets CRC_WARN and decoding goes on as it would on
the same response with the right CRC. With no mismatch neither happens. The comparison agrees with the residue test, and a frame
whose two CRC bytes are swapped fails it unless they are equal. -/
def Obligations.CrcMismatchFollowsThePolicy : Prop :=
  (∀ (body : List Byte) (cl ch : Byte), crcMismatch (body ++ [cl, ch]) = false →
    (crcMismatch (body ++ [ch, cl]) = false ↔ cl = ch)) ∧
  ∀ (rx : List Byte) (s : State), s.pendValid = true → rx.length = s.pendKind.rlen → rxByte rx 0 = s.txb[0] →
    (crcMismatch rx = false ↔ crc16 rx = 0x0000) ∧
    (crcMismatch rx = true → s.policy = .strict →
      exec (.dec rx) s = .next { s with
        pendValid := false, status := .checksumMismatch, result := 0x00000000, resultValid := false, crcWarn := false }) ∧
    (crcMismatch rx = true → s.policy = .lenient →
      ∃ t, exec (.dec rx) s = .next t ∧ t.crcWarn = true ∧ t.status ≠ .checksumMismatch ∧
        exec (.dec (frame (rx.take (rx.length - 2)))) s = .next { t with crcWarn := false }) ∧
    (crcMismatch rx = false →
      ∃ t, exec (.dec rx) s = .next t ∧ t.crcWarn = false ∧ t.status ≠ .checksumMismatch)

/-- POLICY decides nothing but what a CRC mismatch does (R23, R124): on a response with the right CRC both policies agree. -/
def Obligations.PoliciesAgreeOnAGoodCrc : Prop :=
  ∀ (rx : List Byte) (s : State) (p : Policy), crcMismatch rx = false →
    ∃ t, exec (.dec rx) s = .next t ∧ exec (.dec rx) { s with policy := p } = .next { t with policy := p }

/-- R125: another function code, when the checks before it have passed, is FunctionMismatch; a CRC warning stays. -/
def Obligations.WrongFunctionIsFunctionMismatch : Prop :=
  ∀ (rx : List Byte) (s : State), s.pendValid = true → rx.length = s.pendKind.rlen → rxByte rx 0 = s.txb[0] →
    (crcMismatch rx = false ∨ s.policy = .lenient) → rxByte rx 1 ≠ s.txb[1] →
    exec (.dec rx) s = .next { s with
      pendValid := false, status := .functionMismatch, result := 0x00000000, resultValid := false,
      crcWarn := crcMismatch rx }

/-- R126: a DEC that fails leaves its code, no value, and CRC_WARN as it was at that point; nothing else but PEND_VALID
changes. -/
def Obligations.FailedDecLeavesNoValue : Prop :=
  ∀ (rx : List Byte) (s : State), decOutcome rx s ≠ .ok →
    exec (.dec rx) s = .next { s with
      pendValid := false, status := decOutcome rx s, result := 0x00000000, resultValid := false,
      crcWarn := crcWarned rx s }

/-- R163: the first failing check decides the code; NoPendingRequest comes before all. -/
def Obligations.FirstFailingCheckDecides : Prop :=
  ∀ (rx : List Byte) (s : State), ∃ t, exec (.dec rx) s = .next t ∧ t.status = decOutcome rx s

/-- R127: a response of format W5, its first two bytes those of the request, its CRC right or the policy LENIENT. -/
def Obligations.ReadCoilDecodesBitZero : Prop :=
  (∀ (dv fc bc sb cl ch : Byte) (s : State), s.pendValid = true → s.pendKind = .rdCoil → dv = s.txb[0] → fc = s.txb[1] →
    (crcMismatch [dv, fc, bc, sb, cl, ch] = false ∨ s.policy = .lenient) →
    exec (.dec [dv, fc, bc, sb, cl, ch]) s = .next { s with
      pendValid := false
      status := if bc = 0x01 then .ok else .unexpectedByteCount
      result := if bc = 0x01 ∧ sb[0] = true then 0x00000001 else 0x00000000
      resultValid := decide (bc = 0x01)
      crcWarn := crcMismatch [dv, fc, bc, sb, cl, ch] }) ∧
  ∀ s : State, s.policy = .strict → ∃ t,
    runCommands [.encRdCoil 0x01 0x0000, .dec [0x01, 0x01, 0x01, 0x01, 0x90, 0x48]] s = .next t ∧
    t.status = .ok ∧ t.result = 0x00000001 ∧ t.resultValid = true

/-- R128: a response of format W6; the value is zero-extended. -/
def Obligations.ReadRegisterDecodesItsValue : Prop :=
  (∀ (dv fc bc vh vl cl ch : Byte) (s : State), s.pendValid = true → s.pendKind = .rdU16 → dv = s.txb[0] →
    fc = s.txb[1] → (crcMismatch [dv, fc, bc, vh, vl, cl, ch] = false ∨ s.policy = .lenient) →
    exec (.dec [dv, fc, bc, vh, vl, cl, ch]) s = .next { s with
      pendValid := false
      status := if bc = 0x02 then .ok else .unexpectedByteCount
      result := if bc = 0x02 then (be16 vh vl).setWidth 32 else 0x00000000
      resultValid := decide (bc = 0x02)
      crcWarn := crcMismatch [dv, fc, bc, vh, vl, cl, ch] }) ∧
  ∀ s : State, s.policy = .strict → ∃ t,
    runCommands [.encRdU16 0x01 0x0A34, .dec [0x01, 0x03, 0x02, 0x12, 0x34, 0xB5, 0x33]] s = .next t ∧
    t.status = .ok ∧ t.result = 0x00001234 ∧ t.resultValid = true

/-- R129: a response of format W7; the pattern is passed through unchanged. -/
def Obligations.ReadFloatDecodesThePattern : Prop :=
  (∀ (dv fc bc d0 d1 d2 d3 cl ch : Byte) (s : State), s.pendValid = true → s.pendKind = .rdF32 → dv = s.txb[0] →
    fc = s.txb[1] → (crcMismatch [dv, fc, bc, d0, d1, d2, d3, cl, ch] = false ∨ s.policy = .lenient) →
    exec (.dec [dv, fc, bc, d0, d1, d2, d3, cl, ch]) s = .next { s with
      pendValid := false
      status := if bc = 0x04 then .ok else .unexpectedByteCount
      result := if bc = 0x04 then be32 d0 d1 d2 d3 else 0x00000000
      resultValid := decide (bc = 0x04)
      crcWarn := crcMismatch [dv, fc, bc, d0, d1, d2, d3, cl, ch] }) ∧
  ∀ s : State, s.policy = .strict → ∃ t,
    runCommands [.encRdF32 0x01 0x0A34, .dec [0x01, 0x03, 0x04, 0x3F, 0x1E, 0x00, 0x00, 0x96, 0x21]] s = .next t ∧
    t.status = .ok ∧ t.result = 0x3F1E0000 ∧ t.resultValid = true

/-- R130: a response of format W8 must echo bytes 2 to 5 of the request; a write gives no value. -/
def Obligations.WriteCoilNeedsItsEcho : Prop :=
  (∀ (dv fc ah al vh vl cl ch : Byte) (s : State), s.pendValid = true → s.pendKind = .wrCoil → dv = s.txb[0] →
    fc = s.txb[1] → (crcMismatch [dv, fc, ah, al, vh, vl, cl, ch] = false ∨ s.policy = .lenient) →
    exec (.dec [dv, fc, ah, al, vh, vl, cl, ch]) s = .next { s with
      pendValid := false
      status := if [ah, al, vh, vl] = [s.txb[2], s.txb[3], s.txb[4], s.txb[5]] then .ok else .echoMismatch
      result := 0x00000000
      resultValid := false
      crcWarn := crcMismatch [dv, fc, ah, al, vh, vl, cl, ch] }) ∧
  ∀ s : State, s.policy = .strict → ∃ t u,
    runCommands [.encWrCoil 0x01 0x0000 true, .dec [0x01, 0x05, 0x00, 0x00, 0x00, 0x01, 0x0C, 0x0A]] s = .next t ∧
    t.status = .ok ∧ t.resultValid = false ∧
    runCommands [.encWrCoil 0x01 0x0000 true, .dec [0x01, 0x05, 0x00, 0x00, 0xFF, 0x00, 0x8C, 0x3A]] s = .next u ∧
    u.status = .echoMismatch

/-- R131: a response of format W9 must carry the request's quantity; its register address is not checked. -/
def Obligations.WriteRegistersNeedTheQuantity : Prop :=
  (∀ (dv fc ah al qh ql cl ch : Byte) (s : State), s.pendValid = true →
    s.pendKind = .wrU16 ∨ s.pendKind = .wrF32 → dv = s.txb[0] → fc = s.txb[1] →
    (crcMismatch [dv, fc, ah, al, qh, ql, cl, ch] = false ∨ s.policy = .lenient) →
    exec (.dec [dv, fc, ah, al, qh, ql, cl, ch]) s = .next { s with
      pendValid := false
      status := if be16 qh ql = be16 s.txb[4] s.txb[5] then .ok else .unexpectedByteCount
      result := 0x00000000
      resultValid := false
      crcWarn := crcMismatch [dv, fc, ah, al, qh, ql, cl, ch] }) ∧
  (∀ (dev : Byte) (a v : Half) (s : State), ∃ t, exec (.encWrU16 dev a v) s = .next t ∧
    t.txb[4] = 0x00 ∧ t.txb[5] = 0x01) ∧
  (∀ (dev : Byte) (a : Half) (f : Word) (s : State), ∃ t, exec (.encWrF32 dev a f) s = .next t ∧
    t.txb[4] = 0x00 ∧ t.txb[5] = 0x02) ∧
  ∀ s : State, s.policy = .strict → ∃ t,
    runCommands [.encWrU16 0x01 0x0000 0x0001, .dec [0x01, 0x10, 0x00, 0x00, 0x00, 0x01, 0x01, 0xC9]] s = .next t ∧
    t.status = .ok

/-- R132: a request handed back to DEC unchanged is ShortRead for every kind but WR_COIL, for which it is OK. -/
def Obligations.LoopBackPassesOnlyForWriteCoil : Prop :=
  ∀ (i : Instr) (k : Kind) (body : List Byte) (s : State), i.request = some (k, body) →
    ∃ t u, exec i s = .next t ∧ exec (.dec (txFrame t)) t = .next u ∧
      u.status = (if k = .wrCoil then .ok else .shortRead) ∧ u.resultValid = false ∧ u.crcWarn = false

/-- R132, spec/90_conflicts.md C10: under STRICT, changing one byte before the CRC field of a response that decodes OK is
always detected, and no value is left. -/
def Obligations.OneCorruptedByteIsDetected : Prop :=
  ∀ (rx : List Byte) (k : Nat) (b : Byte) (s : State), s.pendValid = true → s.policy = .strict → decOutcome rx s = .ok →
    k + 2 < rx.length → b ≠ rxByte rx k →
    exec (.dec (rx.set k b)) s = .next { s with
      pendValid := false
      status := if k = 0 then .addressMismatch else .checksumMismatch
      result := 0x00000000
      resultValid := false
      crcWarn := false }

/-- R76, spec/95_test_vectors.md S3: the payload a float write sends, read back in a response to a float read, is the same
pattern, bit for bit, for every pattern. -/
def Obligations.FloatPatternsSurviveTheWire : Prop :=
  ∀ (dev : Byte) (a : Half) (f : Word) (s : State), ∃ t u,
    exec (.encWrF32 dev a f) s = .next t ∧
    runCommands [.encRdF32 dev a,
      .dec (frame ([dev, 0x03, 0x04] ++ (t.txb.toList.drop 7).take 4))] s = .next u ∧
    u.status = .ok ∧ u.resultValid = true ∧ u.result = f ∧ u.crcWarn = false

/-! ### The host's transaction -/

/-- R177: the encode command runs and the host hands the transport TXB[0..TXLEN-1], the sealed frame of the request; an IOError
or a count below TXLEN ends the transaction in ShortWrite, with nothing else done and the request still pending; with the whole
frame written, the host waits, asks for RLEN bytes, and gives DEC the bytes received, and reads the outcome, which is ShortRead
where the read ended in an IOError (spec/92_eei_decisions.md D21). Those bytes are an operand DEC can carry. That the answers are
arguments, and that the two commands run as single effects, are the model's choices, log entries 9 and 11. -/
def Obligations.TransactionIsEncodeThenDec : Prop :=
  ∀ (h : Handle) (a : Accessor) (w : Transport a.kind) (s : State), ∃ t body, exec a.command s = .next t ∧
    a.command.request = some (a.kind, body) ∧ t.txb.toList.take t.txlen.toNat = frame body ∧
    t.txlen.toNat = a.kind.requestLength ∧ t.pendValid = true ∧
    (w.write = .ioError → transaction h a w s = .next ⟨t, .shortWrite,
      [.command a.command, .write h (frame body) (Config.writeTimeout a.kind.requestLength)]⟩) ∧
    ∀ c, w.write = .wrote c →
      (c.val < t.txlen.toNat → transaction h a w s = .next ⟨t, .shortWrite,
        [.command a.command, .write h (frame body) (Config.writeTimeout a.kind.requestLength)]⟩) ∧
      (t.txlen.toNat ≤ c.val → (Instr.dec w.read.bytes).wellFormed = true ∧ ∃ u, exec (.dec w.read.bytes) t = .next u ∧
        (w.read.ioError = true → u.status = .shortRead ∧ u.resultValid = false) ∧
        transaction h a w s = .next ⟨u,
          .decoded u.status (if u.resultValid = true then some u.result else none) u.crcWarn,
          [.command a.command, .write h (frame body) (Config.writeTimeout a.kind.requestLength),
           .wait Config.settleInterval, .read h a.kind.rlen (Config.readTimeout a.kind.rlen),
           .command (.dec w.read.bytes)]⟩)

/-- R179: a transaction ends, and when DEC has completed STATUS is one of 0x0 to 0x6. -/
def Obligations.TransactionEndsInARecordedOutcome : Prop :=
  ∀ (h : Handle) (a : Accessor) (w : Transport a.kind) (s : State), ∃ e, transaction h a w s = .next e ∧
    (e.report = .shortWrite ∨ (e.block.status.code.toNat ≤ 0x6 ∧
      e.report =
        .decoded e.block.status (if e.block.resultValid = true then some e.block.result else none) e.block.crcWarn))

/-- The block end to end (R102 to R107, R127 to R131, R177): when the frame is sent whole and the device answers in the format of
the kind, each read accessor returns the value the response carries and each write accessor OK with no value, under both
policies and from every state. -/
def Obligations.TransactionsReturnTheDevicesValue : Prop :=
  ∀ (h : Handle) (dev : Byte) (a : Half) (s : State),
    (∀ (w : Transport .rdCoil) (n : Fin 9) (sb : Byte), w.write = .wrote n → Kind.rdCoil.requestLength ≤ n.val →
      w.read.bytes = frame [dev, 0x01, 0x01, sb] → ∃ t done, transaction h (.readCoil dev a) w s =
        .next ⟨t, .decoded .ok (some (if sb[0] = true then 0x00000001 else 0x00000000)) false, done⟩) ∧
    (∀ (w : Transport .rdU16) (n : Fin 9) (v : Half), w.write = .wrote n → Kind.rdU16.requestLength ≤ n.val →
      w.read.bytes = frame [dev, 0x03, 0x02, hi8 v, lo8 v] → ∃ t done, transaction h (.readU16 dev a) w s =
        .next ⟨t, .decoded .ok (some (v.setWidth 32)) false, done⟩) ∧
    (∀ (w : Transport .rdF32) (n : Fin 9) (f : Word), w.write = .wrote n → Kind.rdF32.requestLength ≤ n.val →
      w.read.bytes = frame ([dev, 0x03, 0x04] ++ wordBytes f) → ∃ t done, transaction h (.readF32 dev a) w s =
        .next ⟨t, .decoded .ok (some f) false, done⟩) ∧
    (∀ (w : Transport .wrCoil) (n : Fin 9) (v : Bool), w.write = .wrote n → Kind.wrCoil.requestLength ≤ n.val →
      w.read.bytes = frame [dev, 0x05, hi8 a, lo8 a, 0x00, if v then 0x01 else 0x00] →
      ∃ t done, transaction h (.writeCoil dev a v) w s = .next ⟨t, .decoded .ok none false, done⟩) ∧
    (∀ (w : Transport .wrU16) (n : Fin 12) (v a' : Half), w.write = .wrote n → Kind.wrU16.requestLength ≤ n.val →
      w.read.bytes = frame [dev, 0x10, hi8 a', lo8 a', 0x00, 0x01] →
      ∃ t done, transaction h (.writeU16 dev a v) w s = .next ⟨t, .decoded .ok none false, done⟩) ∧
    (∀ (w : Transport .wrF32) (n : Fin 14) (f : Word) (a' : Half), w.write = .wrote n → Kind.wrF32.requestLength ≤ n.val →
      w.read.bytes = frame [dev, 0x10, hi8 a', lo8 a', 0x00, 0x02] →
      ∃ t done, transaction h (.writeF32 dev a f) w s = .next ⟨t, .decoded .ok none false, done⟩)

/-- R176, R192: a failed open is PortOpenFailure, with nothing else done and the block unchanged. On an open port every call is
made, in order, each from the state the call before it left, whatever its outcome (R167: no retry, and nothing stops the next
call); the port is opened once, before all, with the line settings of R176 and a purge, and closed once, after all. That the
calls stand between one open and one close is the model's arrangement of the four operations of R176, log entry 9. -/
def Obligations.SessionMakesEveryCallInOrder : Prop :=
  Status.portOpenFailure.code = 0xA ∧
  ∀ (port : String) (line : Config.LineSettings), line = ⟨9600, 8, 1, false, true⟩ →
    (∀ (calls : List Call) (s : State),
      session port .openError calls s = .next ⟨s, .failed .portOpenFailure, [.openPort port line]⟩) ∧
    ∀ (h : Handle) (s : State),
      session port (.handle h) [] s = .next ⟨s, .closed [], [.openPort port line, .close h]⟩ ∧
      ∀ (c : Call) (calls : List Call), ∃ e u rs done, transaction h c.accessor c.transport s = .next e ∧
        session port (.handle h) calls e.block =
          .next ⟨u, .closed rs, .openPort port line :: (done ++ [.close h])⟩ ∧
        rs.length = calls.length ∧
        session port (.handle h) (c :: calls) s =
          .next ⟨u, .closed (e.report :: rs), .openPort port line :: (e.events ++ done ++ [.close h])⟩
end

