-- ==== Sys2Proof/Laws/Operands.lean ====
section
/-! SUPPORT. Laws of the operand forms: taking fields apart and putting them together, and the opcode map. -/

namespace Sys2Proof

@[simp] theorem hi8_be16 (x y : Byte) : hi8 (be16 x y) = x := by
  ext i hi
  have h : 8 + i < 16 := by omega
  simp [hi8, be16, h, BitVec.getLsbD_eq_getElem hi]

@[simp] theorem lo8_be16 (x y : Byte) : lo8 (be16 x y) = y := by
  ext i hi
  have h : i < 16 := by omega
  simp [lo8, be16, hi, h]

@[simp] theorem be16_hi8_lo8 (v : Half) : be16 (hi8 v) (lo8 v) = v := by
  ext i hi
  by_cases h : i < 8
  · simp [hi8, lo8, be16, h, BitVec.getLsbD_eq_getElem hi]
  · have h1 : i - 8 < 8 := by omega
    have h2 : 8 + (i - 8) = i := by omega
    simp [hi8, lo8, be16, h, h1, h2, BitVec.getLsbD_eq_getElem hi]

theorem be16_inj {x y x' y' : Byte} : be16 x y = be16 x' y' ↔ x = x' ∧ y = y' := by
  constructor
  · intro h
    exact ⟨by simpa using congrArg hi8 h, by simpa using congrArg lo8 h⟩
  · rintro ⟨rfl, rfl⟩
    rfl

theorem be16_toNat (x y : Byte) : (be16 x y).toNat = 256 * x.toNat + y.toNat := by
  have hx := x.isLt
  have hy := y.isLt
  simp only [be16, BitVec.toNat_or, BitVec.toNat_shiftLeft, BitVec.toNat_setWidth]
  rw [Nat.mod_eq_of_lt (by omega : x.toNat < 2 ^ 16), Nat.mod_eq_of_lt (by omega : y.toNat < 2 ^ 16)]
  rw [Nat.mod_eq_of_lt (by rw [Nat.shiftLeft_eq]; omega)]
  rw [← Nat.shiftLeft_add_eq_or_of_lt (by omega : y.toNat < 2 ^ 8), Nat.shiftLeft_eq]
  omega

theorem wordBytes_be32 (a b c d : Byte) : wordBytes (be32 a b c d) = [a, b, c, d] := by
  simp only [wordBytes, List.cons.injEq, and_true]
  refine ⟨?_, ?_, ?_, ?_⟩ <;> ext i hi <;> interval_cases i <;> simp [be32]

theorem be32_wordBytes (f : Word) :
    be32 (f.extractLsb' 24 8) (f.extractLsb' 16 8) (f.extractLsb' 8 8) (f.extractLsb' 0 8) = f := by
  ext i hi
  simp only [be32]
  interval_cases i <;> simp

/-- The opcode map has one byte per row: reading back a row's byte gives the row. -/
@[simp] theorem opcodeOf_byte (o : Opcode) : opcodeOf o.byte = some o := by cases o <;> rfl

/-- The opcode map has one row per byte. -/
theorem byte_of_opcodeOf {b : Byte} {o : Opcode} (h : opcodeOf b = some o) : o.byte = b := by
  simpa using List.find?_some h

@[simp] theorem policyCommand_policyByte (p : Policy) : policyCommand (policyByte p) = .setPolicy p := by cases p <;> rfl

@[simp] theorem coilCommand_coilByte (dev : Byte) (a : Half) (v : Bool) :
    coilCommand dev a (coilByte v) = .encWrCoil dev a v := by cases v <;> rfl

/-- The wire word of a coil state, byte by byte: `00 01` or `00 00` (R105). -/
theorem coilWord_bytes (v : Bool) : hi8 (coilWord v) = 0x00 ∧ lo8 (coilWord v) = if v then 0x01 else 0x00 := by
  cases v <;> decide

end Sys2Proof
end

