-- ==== Sys2Proof/Laws/Crc.lean ====
section
/-! SUPPORT. Laws of the CRC functions (spec/40_crc.md): every step loses nothing, and the two bytes of a CRC, low byte first,
bring the accumulator to zero. -/

namespace Sys2Proof.Machine

/-- The polynomial's top bit records the bit shifted out. -/
theorem crcBit_top (x : Half) : (crcBit x)[15] = x[0] := by
  unfold crcBit
  split
  next h => simp [h, Config.crcPoly]
  next h => simpa using h

theorem crcBit_injective {x y : Half} (h : crcBit x = crcBit y) : x = y := by
  have h0 : x[0] = y[0] := by rw [← crcBit_top x, ← crcBit_top y, h]
  have hs : x >>> 1 = y >>> 1 := by
    unfold crcBit at h
    rw [h0] at h
    split at h
    · simpa using h
    · exact h
  ext i hi
  match i, hi with
  | 0, _ => exact h0
  | k + 1, hk =>
    have := congrArg (fun v => BitVec.getLsbD v k) hs
    simpa [Nat.add_comm 1 k, BitVec.getLsbD_eq_getElem hk] using this

theorem crcBits_injective (n : Nat) {x y : Half} (h : crcBit^[n] x = crcBit^[n] y) : x = y :=
  Function.Injective.iterate (fun _ _ => crcBit_injective) n h

theorem crcStep_injective_acc {a a' : Half} {b : Byte} (h : crcStep a b = crcStep a' b) : a = a' := by
  simpa using crcBits_injective 8 h

theorem crcStep_injective_byte {a : Half} {b b' : Byte} (h : crcStep a b = crcStep a b') : b = b' := by
  have h' : b.setWidth 16 = b'.setWidth 16 := by simpa using crcBits_injective 8 h
  simpa using congrArg (BitVec.setWidth 8) h'

/-- The accumulator before a run of bytes can be told from the one after it. -/
theorem foldl_crcStep_injective (bs : List Byte) {a a' : Half}
    (h : bs.foldl crcStep a = bs.foldl crcStep a') : a = a' := by
  induction bs generalizing a a' with
  | nil => exact h
  | cons b bs ih => exact crcStep_injective_acc (ih h)

/-- Where the low bits are zero, the iterations are plain shifts. -/
theorem crcBits_shift (n : Nat) (x : Half) (h : ∀ k < n, x.getLsbD k = false) : crcBit^[n] x = x >>> n := by
  induction n generalizing x with
  | zero => simp
  | succ n ih =>
    have hx : x[0] = false := h 0 (by omega)
    have h0 : crcBit x = x >>> 1 := by simp [crcBit, hx]
    rw [Function.iterate_succ_apply, h0, ih, ← BitVec.shiftRight_add, Nat.add_comm]
    intro k hk
    rw [BitVec.getLsbD_ushiftRight]
    exact h _ (by omega)

theorem crcStep_low_byte (c : Half) : crcStep c (lo8 c) = (hi8 c).setWidth 16 := by
  unfold crcStep
  rw [crcBits_shift]
  · ext i hi
    by_cases h : i < 8
    · simp [lo8, hi8, h]
    · simp [lo8, hi8, h]
      exact BitVec.getLsbD_of_ge _ _ (by omega)
  · intro k hk
    simp [lo8, hk, show k < 16 by omega]

theorem crcStep_same_byte (b : Byte) : crcStep (b.setWidth 16) b = 0 := by
  simp only [crcStep, BitVec.xor_self]
  decide

@[simp] theorem crc16_nil : crc16 [] = 0xFFFF := rfl

theorem crc16_append (xs ys : List Byte) : crc16 (xs ++ ys) = ys.foldl crcStep (crc16 xs) := by
  simp [crc16, List.foldl_append]

/-- The two CRC bytes, low byte first, bring the accumulator to zero, and only they do. -/
theorem crcStep_two_bytes (c : Half) (cl ch : Byte) : crcStep (crcStep c cl) ch = 0 ↔ c = be16 ch cl := by
  have h0 : crcStep (crcStep (be16 ch cl) cl) ch = 0 := by
    have h := crcStep_low_byte (be16 ch cl)
    rw [lo8_be16, hi8_be16] at h
    rw [h, crcStep_same_byte]
  constructor
  · intro h
    rw [← h0] at h
    exact crcStep_injective_acc (crcStep_injective_acc h)
  · rintro rfl
    exact h0

@[simp] theorem frame_length (body : List Byte) : (frame body).length = body.length + 2 := rfl.trans (by simp [frame, crcBytes])

end Sys2Proof.Machine
end

