-- ==== Sys2Proof/Laws/Decode.lean ====
section
/-! SUPPORT. Laws of the decoder and encoder, by shape of operand (spec/30_encoding.md R60 to R64). -/

namespace Sys2Proof

/-- An assigned opcode byte selects its row's operands. -/
@[simp] theorem decode_byte (o : Opcode) (rest : List Byte) : decode (o.byte :: rest) = decodeOperands o rest := by
  simp [decode]

/-- A byte sequence behind its own length byte is read back whole. -/
theorem decodeCounted_countedBytes (make : List Byte → Instr) (bs rest : List Byte) (h : bs.length ≤ 255) :
    decodeCounted make (countedBytes bs ++ rest) = .ok (make bs, rest) := by
  have hn : (BitVec.ofNat 8 bs.length).toNat = bs.length := by
    rw [BitVec.toNat_ofNat]
    omega
  rw [countedBytes, List.cons_append, decodeCounted, hn, if_pos (by simp), List.take_left, List.drop_left]

/-- Whatever a counted operand reads is a sequence behind its own length byte. -/
theorem decodeCounted_inv {make : List Byte → Instr} {bs rest : List Byte} {i : Instr}
    (h : decodeCounted make bs = .ok (i, rest)) :
    ∃ xs, xs.length ≤ 255 ∧ i = make xs ∧ bs = countedBytes xs ++ rest := by
  match bs, h with
  | n :: bs, h =>
    simp only [decodeCounted] at h
    split at h
    next hn =>
      simp only [Except.ok.injEq, Prod.mk.injEq] at h
      obtain ⟨rfl, rfl⟩ := h
      have hl : (bs.take n.toNat).length = n.toNat := by simp [hn]
      have hlt := n.isLt
      refine ⟨_, by omega, rfl, ?_⟩
      simp [countedBytes, hl]
    next => cases h

theorem policyCommand_inv (p : Byte) :
    (∃ q, policyCommand p = .setPolicy q ∧ policyByte q = p) ∨
    (policyCommand p = .illegal (.policy p) ∧ p ≠ 0x00 ∧ p ≠ 0x01) := by
  unfold policyCommand
  split
  next h => exact .inl ⟨.strict, rfl, h.symm⟩
  next h =>
    split
    next h1 => exact .inl ⟨.lenient, rfl, h1.symm⟩
    next h1 => exact .inr ⟨rfl, h, h1⟩

theorem coilCommand_inv (dev : Byte) (a : Half) (v : Byte) :
    (∃ q, coilCommand dev a v = .encWrCoil dev a q ∧ coilByte q = v) ∨
    (coilCommand dev a v = .illegal (.coil dev a v) ∧ v ≠ 0x00 ∧ v ≠ 0x01) := by
  unfold coilCommand
  split
  next h => exact .inl ⟨false, rfl, h.symm⟩
  next h =>
    split
    next h1 => exact .inl ⟨true, rfl, h1.symm⟩
    next h1 => exact .inr ⟨rfl, h, h1⟩

end Sys2Proof
end

