-- ==== Sys2Proof/Laws/State.lean ====
section
/-! SUPPORT. One lemma per field per named update of State: what the update leaves there. No later proof unfolds a record update. -/

namespace Sys2Proof.Machine

@[simp] theorem setAcc_acc (v : Half) (s : State) : (setAcc v s).acc = v := rfl
@[simp] theorem setAcc_policy (v : Half) (s : State) : (setAcc v s).policy = s.policy := rfl
@[simp] theorem setAcc_txb (v : Half) (s : State) : (setAcc v s).txb = s.txb := rfl
@[simp] theorem setAcc_txlen (v : Half) (s : State) : (setAcc v s).txlen = s.txlen := rfl
@[simp] theorem setAcc_pendValid (v : Half) (s : State) : (setAcc v s).pendValid = s.pendValid := rfl
@[simp] theorem setAcc_pendKind (v : Half) (s : State) : (setAcc v s).pendKind = s.pendKind := rfl
@[simp] theorem setAcc_status (v : Half) (s : State) : (setAcc v s).status = s.status := rfl
@[simp] theorem setAcc_result (v : Half) (s : State) : (setAcc v s).result = s.result := rfl
@[simp] theorem setAcc_resultValid (v : Half) (s : State) : (setAcc v s).resultValid = s.resultValid := rfl
@[simp] theorem setAcc_crcWarn (v : Half) (s : State) : (setAcc v s).crcWarn = s.crcWarn := rfl
@[simp] theorem setAcc_stream (v : Half) (s : State) : (setAcc v s).stream = s.stream := rfl

@[simp] theorem setPolicyBit_acc (p : Policy) (s : State) : (setPolicyBit p s).acc = s.acc := rfl
@[simp] theorem setPolicyBit_policy (p : Policy) (s : State) : (setPolicyBit p s).policy = p := rfl
@[simp] theorem setPolicyBit_txb (p : Policy) (s : State) : (setPolicyBit p s).txb = s.txb := rfl
@[simp] theorem setPolicyBit_txlen (p : Policy) (s : State) : (setPolicyBit p s).txlen = s.txlen := rfl
@[simp] theorem setPolicyBit_pendValid (p : Policy) (s : State) : (setPolicyBit p s).pendValid = s.pendValid := rfl
@[simp] theorem setPolicyBit_pendKind (p : Policy) (s : State) : (setPolicyBit p s).pendKind = s.pendKind := rfl
@[simp] theorem setPolicyBit_status (p : Policy) (s : State) : (setPolicyBit p s).status = s.status := rfl
@[simp] theorem setPolicyBit_result (p : Policy) (s : State) : (setPolicyBit p s).result = s.result := rfl
@[simp] theorem setPolicyBit_resultValid (p : Policy) (s : State) : (setPolicyBit p s).resultValid = s.resultValid := rfl
@[simp] theorem setPolicyBit_crcWarn (p : Policy) (s : State) : (setPolicyBit p s).crcWarn = s.crcWarn := rfl
@[simp] theorem setPolicyBit_stream (p : Policy) (s : State) : (setPolicyBit p s).stream = s.stream := rfl

@[simp] theorem finish_acc (c : Status) (s : State) : (finish c s).acc = s.acc := rfl
@[simp] theorem finish_policy (c : Status) (s : State) : (finish c s).policy = s.policy := rfl
@[simp] theorem finish_txb (c : Status) (s : State) : (finish c s).txb = s.txb := rfl
@[simp] theorem finish_txlen (c : Status) (s : State) : (finish c s).txlen = s.txlen := rfl
@[simp] theorem finish_pendValid (c : Status) (s : State) : (finish c s).pendValid = s.pendValid := rfl
@[simp] theorem finish_pendKind (c : Status) (s : State) : (finish c s).pendKind = s.pendKind := rfl
@[simp] theorem finish_status (c : Status) (s : State) : (finish c s).status = c := rfl
@[simp] theorem finish_result (c : Status) (s : State) : (finish c s).result = s.result := rfl
@[simp] theorem finish_resultValid (c : Status) (s : State) : (finish c s).resultValid = s.resultValid := rfl
@[simp] theorem finish_crcWarn (c : Status) (s : State) : (finish c s).crcWarn = s.crcWarn := rfl
@[simp] theorem finish_stream (c : Status) (s : State) : (finish c s).stream = s.stream := rfl

@[simp] theorem fail_acc (c : Status) (s : State) : (fail c s).acc = s.acc := rfl
@[simp] theorem fail_policy (c : Status) (s : State) : (fail c s).policy = s.policy := rfl
@[simp] theorem fail_txb (c : Status) (s : State) : (fail c s).txb = s.txb := rfl
@[simp] theorem fail_txlen (c : Status) (s : State) : (fail c s).txlen = s.txlen := rfl
@[simp] theorem fail_pendValid (c : Status) (s : State) : (fail c s).pendValid = s.pendValid := rfl
@[simp] theorem fail_pendKind (c : Status) (s : State) : (fail c s).pendKind = s.pendKind := rfl
@[simp] theorem fail_status (c : Status) (s : State) : (fail c s).status = c := rfl
@[simp] theorem fail_result (c : Status) (s : State) : (fail c s).result = 0x00000000 := rfl
@[simp] theorem fail_resultValid (c : Status) (s : State) : (fail c s).resultValid = false := rfl
@[simp] theorem fail_crcWarn (c : Status) (s : State) : (fail c s).crcWarn = s.crcWarn := rfl
@[simp] theorem fail_stream (c : Status) (s : State) : (fail c s).stream = s.stream := rfl

@[simp] theorem clearOutcome_acc (s : State) : (clearOutcome s).acc = s.acc := rfl
@[simp] theorem clearOutcome_policy (s : State) : (clearOutcome s).policy = s.policy := rfl
@[simp] theorem clearOutcome_txb (s : State) : (clearOutcome s).txb = s.txb := rfl
@[simp] theorem clearOutcome_txlen (s : State) : (clearOutcome s).txlen = s.txlen := rfl
@[simp] theorem clearOutcome_pendValid (s : State) : (clearOutcome s).pendValid = s.pendValid := rfl
@[simp] theorem clearOutcome_pendKind (s : State) : (clearOutcome s).pendKind = s.pendKind := rfl
@[simp] theorem clearOutcome_status (s : State) : (clearOutcome s).status = s.status := rfl
@[simp] theorem clearOutcome_result (s : State) : (clearOutcome s).result = 0x00000000 := rfl
@[simp] theorem clearOutcome_resultValid (s : State) : (clearOutcome s).resultValid = false := rfl
@[simp] theorem clearOutcome_crcWarn (s : State) : (clearOutcome s).crcWarn = false := rfl
@[simp] theorem clearOutcome_stream (s : State) : (clearOutcome s).stream = s.stream := rfl

@[simp] theorem dropPending_acc (s : State) : (dropPending s).acc = s.acc := rfl
@[simp] theorem dropPending_policy (s : State) : (dropPending s).policy = s.policy := rfl
@[simp] theorem dropPending_txb (s : State) : (dropPending s).txb = s.txb := rfl
@[simp] theorem dropPending_txlen (s : State) : (dropPending s).txlen = s.txlen := rfl
@[simp] theorem dropPending_pendValid (s : State) : (dropPending s).pendValid = false := rfl
@[simp] theorem dropPending_pendKind (s : State) : (dropPending s).pendKind = s.pendKind := rfl
@[simp] theorem dropPending_status (s : State) : (dropPending s).status = s.status := rfl
@[simp] theorem dropPending_result (s : State) : (dropPending s).result = s.result := rfl
@[simp] theorem dropPending_resultValid (s : State) : (dropPending s).resultValid = s.resultValid := rfl
@[simp] theorem dropPending_crcWarn (s : State) : (dropPending s).crcWarn = s.crcWarn := rfl
@[simp] theorem dropPending_stream (s : State) : (dropPending s).stream = s.stream := rfl

@[simp] theorem warnCrc_acc (s : State) : (warnCrc s).acc = s.acc := rfl
@[simp] theorem warnCrc_policy (s : State) : (warnCrc s).policy = s.policy := rfl
@[simp] theorem warnCrc_txb (s : State) : (warnCrc s).txb = s.txb := rfl
@[simp] theorem warnCrc_txlen (s : State) : (warnCrc s).txlen = s.txlen := rfl
@[simp] theorem warnCrc_pendValid (s : State) : (warnCrc s).pendValid = s.pendValid := rfl
@[simp] theorem warnCrc_pendKind (s : State) : (warnCrc s).pendKind = s.pendKind := rfl
@[simp] theorem warnCrc_status (s : State) : (warnCrc s).status = s.status := rfl
@[simp] theorem warnCrc_result (s : State) : (warnCrc s).result = s.result := rfl
@[simp] theorem warnCrc_resultValid (s : State) : (warnCrc s).resultValid = s.resultValid := rfl
@[simp] theorem warnCrc_crcWarn (s : State) : (warnCrc s).crcWarn = true := rfl
@[simp] theorem warnCrc_stream (s : State) : (warnCrc s).stream = s.stream := rfl

@[simp] theorem deliver_acc (v : Word) (s : State) : (deliver v s).acc = s.acc := rfl
@[simp] theorem deliver_policy (v : Word) (s : State) : (deliver v s).policy = s.policy := rfl
@[simp] theorem deliver_txb (v : Word) (s : State) : (deliver v s).txb = s.txb := rfl
@[simp] theorem deliver_txlen (v : Word) (s : State) : (deliver v s).txlen = s.txlen := rfl
@[simp] theorem deliver_pendValid (v : Word) (s : State) : (deliver v s).pendValid = s.pendValid := rfl
@[simp] theorem deliver_pendKind (v : Word) (s : State) : (deliver v s).pendKind = s.pendKind := rfl
@[simp] theorem deliver_status (v : Word) (s : State) : (deliver v s).status = s.status := rfl
@[simp] theorem deliver_result (v : Word) (s : State) : (deliver v s).result = v := rfl
@[simp] theorem deliver_resultValid (v : Word) (s : State) : (deliver v s).resultValid = true := rfl
@[simp] theorem deliver_crcWarn (v : Word) (s : State) : (deliver v s).crcWarn = s.crcWarn := rfl
@[simp] theorem deliver_stream (v : Word) (s : State) : (deliver v s).stream = s.stream := rfl

@[simp] theorem hostIssue_acc (bs : List Byte) (s : State) : (hostIssue bs s).acc = s.acc := rfl
@[simp] theorem hostIssue_policy (bs : List Byte) (s : State) : (hostIssue bs s).policy = s.policy := rfl
@[simp] theorem hostIssue_txb (bs : List Byte) (s : State) : (hostIssue bs s).txb = s.txb := rfl
@[simp] theorem hostIssue_txlen (bs : List Byte) (s : State) : (hostIssue bs s).txlen = s.txlen := rfl
@[simp] theorem hostIssue_pendValid (bs : List Byte) (s : State) : (hostIssue bs s).pendValid = s.pendValid := rfl
@[simp] theorem hostIssue_pendKind (bs : List Byte) (s : State) : (hostIssue bs s).pendKind = s.pendKind := rfl
@[simp] theorem hostIssue_status (bs : List Byte) (s : State) : (hostIssue bs s).status = s.status := rfl
@[simp] theorem hostIssue_result (bs : List Byte) (s : State) : (hostIssue bs s).result = s.result := rfl
@[simp] theorem hostIssue_resultValid (bs : List Byte) (s : State) : (hostIssue bs s).resultValid = s.resultValid := rfl
@[simp] theorem hostIssue_crcWarn (bs : List Byte) (s : State) : (hostIssue bs s).crcWarn = s.crcWarn := rfl
@[simp] theorem hostIssue_stream (bs : List Byte) (s : State) : (hostIssue bs s).stream = s.stream ++ bs := rfl

@[simp] theorem encodeRequest_acc (k : Kind) (body : List Byte) (s : State) : (encodeRequest k body s).acc = s.acc := rfl
@[simp] theorem encodeRequest_policy (k : Kind) (body : List Byte) (s : State) : (encodeRequest k body s).policy = s.policy := rfl
@[simp] theorem encodeRequest_txb (k : Kind) (body : List Byte) (s : State) : (encodeRequest k body s).txb = bufferOf (frame body) := rfl
@[simp] theorem encodeRequest_txlen (k : Kind) (body : List Byte) (s : State) : (encodeRequest k body s).txlen = BitVec.ofNat 4 (body.length + 2) := rfl
@[simp] theorem encodeRequest_pendValid (k : Kind) (body : List Byte) (s : State) : (encodeRequest k body s).pendValid = true := rfl
@[simp] theorem encodeRequest_pendKind (k : Kind) (body : List Byte) (s : State) : (encodeRequest k body s).pendKind = k := rfl
@[simp] theorem encodeRequest_status (k : Kind) (body : List Byte) (s : State) : (encodeRequest k body s).status = .noResult := rfl
@[simp] theorem encodeRequest_result (k : Kind) (body : List Byte) (s : State) : (encodeRequest k body s).result = 0x00000000 := rfl
@[simp] theorem encodeRequest_resultValid (k : Kind) (body : List Byte) (s : State) : (encodeRequest k body s).resultValid = false := rfl
@[simp] theorem encodeRequest_crcWarn (k : Kind) (body : List Byte) (s : State) : (encodeRequest k body s).crcWarn = false := rfl
@[simp] theorem encodeRequest_stream (k : Kind) (body : List Byte) (s : State) : (encodeRequest k body s).stream = s.stream := rfl

end Sys2Proof.Machine
end

