-- ==== Sys2Proof/Laws/Encode.lean ====
section
/-! SUPPORT. What building a request does (spec/41_encode.md R100), said once: the buffer, and the encode commands as one
operation on the request they ask for. -/

namespace Sys2Proof.Machine

@[simp] theorem bufferOf_getElem (f : List Byte) (i : Nat) (h : i < 13) : (bufferOf f)[i] = f.getD i 0x00 := by
  simp [bufferOf]

/-- TXB holds the frame, and zeros after it. -/
theorem bufferOf_toList (f : List Byte) (h : f.length ≤ 13) :
    (bufferOf f).toList = f ++ List.replicate (13 - f.length) 0x00 := by
  apply List.ext_getElem
  · simp only [Vector.length_toList, List.length_append, List.length_replicate, Config.maxTxFrame]
    omega
  · intro i h1 h2
    have hi : i < 13 := by simpa using h1
    simp only [Vector.getElem_toList, bufferOf_getElem f i hi, List.getElem_append]
    split
    next hf => simp [hf]
    next hf => simp [List.getD, List.getElem?_eq_none (Nat.le_of_not_lt hf)]

/-- The request of a kind has the kind's length. -/
theorem request_length {i : Instr} {k : Kind} {body : List Byte} (h : i.request = some (k, body)) :
    body.length + 2 = k.requestLength := by
  cases i <;> simp only [Instr.request, Option.some.injEq, Prod.mk.injEq, reduceCtorEq] at h <;>
    obtain ⟨rfl, rfl⟩ := h <;> rfl

theorem requestLength_le (k : Kind) : 8 ≤ k.requestLength ∧ k.requestLength ≤ 13 := by cases k <;> decide

/-- An encode command is `encode(kind, body)` of its request. -/
theorem exec_encode {i : Instr} {k : Kind} {body : List Byte} (h : i.request = some (k, body)) (s : State) :
    exec i s = .next (encodeRequest k body s) := by
  cases i <;> simp only [Instr.request, Option.some.injEq, Prod.mk.injEq, reduceCtorEq] at h <;>
    obtain ⟨rfl, rfl⟩ := h
  case encWrCoil dev a v =>
    simp only [exec, execEncWrCoil, (coilWord_bytes v).1, (coilWord_bytes v).2]
  all_goals rfl

/-- The writes of `encode(kind, body)`, as they are stated. -/
theorem encodeRequest_latched (k : Kind) (body : List Byte) (s : State) (h : body.length + 2 ≤ 13) :
    RequestLatched s (encodeRequest k body s) k (frame body) := by
  refine ⟨?_, ?_⟩
  · exact bufferOf_toList _ (by simpa using h)
  · simp [encodeRequest]

/-- What the host reads after an encode command is the frame. -/
theorem txFrame_encodeRequest (k : Kind) (body : List Byte) (s : State) (h : body.length + 2 ≤ 13) :
    txFrame (encodeRequest k body s) = frame body := by
  simp only [txFrame, (encodeRequest_latched k body s h).1, encodeRequest_txlen, BitVec.toNat_ofNat]
  rw [Nat.mod_eq_of_lt (by omega), List.take_append_of_le_length (by simp), List.take_of_length_le (by simp)]

end Sys2Proof.Machine
end

