-- ==== Sys2Proof/Laws/PerInstr.lean ====
section
/-! SUPPORT. Statements about every command as syntax, one lemma per constructor. `Length`: the number of bytes of a command is
the length column of the command map (spec/30_encoding.md R63). -/

namespace Sys2Proof

/-- The length column of R63, and the bytes an illegal encoding consumes (R64). -/
def Instr.byteCount : Instr → Nat
  | .nop => 1
  | .crcInit => 1
  | .crcUpdate _ => 2
  | .crcCompute buf => 2 + buf.length
  | .setPolicy _ => 2
  | .encRdCoil _ _ => 4
  | .encRdU16 _ _ => 4
  | .encRdF32 _ _ => 4
  | .encWrCoil _ _ _ => 5
  | .encWrU16 _ _ _ => 6
  | .encWrF32 _ _ _ => 8
  | .dec rx => 2 + rx.length
  | .illegal (.opcode _) => 1
  | .illegal (.policy _) => 2
  | .illegal (.coil _ _ _) => 5

end Sys2Proof

namespace Sys2Proof.Laws.Length

/-- The encoding of the command has the length the command map gives it. -/
def Statement (i : Instr) : Prop := (encode i).length = i.byteCount

theorem nop : Statement .nop := rfl
theorem crcInit : Statement .crcInit := rfl
theorem crcUpdate (b : Byte) : Statement (.crcUpdate b) := rfl
theorem crcCompute (buf : List Byte) : Statement (.crcCompute buf) := by
  simp only [Statement, encode, countedBytes, Instr.byteCount, List.length_cons]
  omega
theorem setPolicy (p : Policy) : Statement (.setPolicy p) := rfl
theorem encRdCoil (dev : Byte) (a : Half) : Statement (.encRdCoil dev a) := rfl
theorem encRdU16 (dev : Byte) (a : Half) : Statement (.encRdU16 dev a) := rfl
theorem encRdF32 (dev : Byte) (a : Half) : Statement (.encRdF32 dev a) := rfl
theorem encWrCoil (dev : Byte) (a : Half) (v : Bool) : Statement (.encWrCoil dev a v) := rfl
theorem encWrU16 (dev : Byte) (a v : Half) : Statement (.encWrU16 dev a v) := rfl
theorem encWrF32 (dev : Byte) (a : Half) (f : Word) : Statement (.encWrF32 dev a f) := rfl
theorem dec (rx : List Byte) : Statement (.dec rx) := by
  simp only [Statement, encode, countedBytes, Instr.byteCount, List.length_cons]
  omega
theorem illegal (e : IllegalForm) : Statement (.illegal e) := by cases e <;> rfl

end Sys2Proof.Laws.Length
end

