-- ==== Sys2Proof/Laws/Response.lean ====
section
/-! SUPPORT. What the checks of DEC can do, each said once, and DEC as a whole (spec/42_decode.md). -/

namespace Sys2Proof.Machine

theorem checkLength_cases (rx : List Byte) (l : Nat) (s : State) :
    (rx.length = l ∧ checkLength rx l s = .ok s) ∨ (rx.length ≠ l ∧ checkLength rx l s = .error (fail .shortRead s)) := by
  unfold checkLength
  by_cases h : rx.length = l <;> simp [h]

theorem checkAddress_cases (rx : List Byte) (s : State) :
    (rxByte rx 0 = s.txb[0] ∧ checkAddress rx s = .ok s) ∨
    (rxByte rx 0 ≠ s.txb[0] ∧ checkAddress rx s = .error (fail .addressMismatch s)) := by
  unfold checkAddress
  by_cases h : rxByte rx 0 = s.txb[0] <;> simp [h]

/-- At the response's own length the CRC check compares what `crcMismatch` compares. -/
theorem crc_check_iff (rx : List Byte) :
    computedCrc rx rx.length ≠ receivedCrc rx rx.length ↔ crcMismatch rx = true := by
  simp [computedCrc, receivedCrc, crcMismatch]

theorem checkCrc_cases (rx : List Byte) (s : State) :
    (crcMismatch rx = false ∧ checkCrc rx rx.length s = .ok s) ∨
    (crcMismatch rx = true ∧ s.policy = .lenient ∧ checkCrc rx rx.length s = .ok (warnCrc s)) ∨
    (crcMismatch rx = true ∧ s.policy = .strict ∧ checkCrc rx rx.length s = .error (fail .checksumMismatch s)) := by
  unfold checkCrc
  have hm := crc_check_iff rx
  cases hc : crcMismatch rx
  · rw [if_neg (fun h => by simp [hm.mp h] at hc)]
    simp
  · rw [if_pos (hm.mpr hc)]
    cases h : s.policy <;> simp

theorem checkFunction_cases (rx : List Byte) (s : State) :
    (rxByte rx 1 = s.txb[1] ∧ checkFunction rx s = .ok s) ∨
    (rxByte rx 1 ≠ s.txb[1] ∧ checkFunction rx s = .error (fail .functionMismatch s)) := by
  unfold checkFunction
  by_cases h : rxByte rx 1 = s.txb[1] <;> simp [h]

/-- The value a response carries, by kind (R127 to R129); a write carries none. -/
def responseValue (rx : List Byte) : Kind → Word
  | .rdCoil => if (rxByte rx 3)[0] then 0x00000001 else 0x00000000
  | .rdU16 => (be16 (rxByte rx 3) (rxByte rx 4)).setWidth 32
  | .rdF32 => be32 (rxByte rx 3) (rxByte rx 4) (rxByte rx 5) (rxByte rx 6)
  | .wrCoil => 0x00000000
  | .wrU16 => 0x00000000
  | .wrF32 => 0x00000000

theorem decodeKind_cases (rx : List Byte) (s : State) :
    (kindOutcome rx s = .ok ∧ decodeKind rx s =
      .ok (if s.pendKind.isRead = true then deliver (responseValue rx s.pendKind) s else s)) ∨
    (kindOutcome rx s ≠ .ok ∧ decodeKind rx s = .error (fail (kindOutcome rx s) s)) := by
  unfold kindOutcome decodeKind
  cases h : s.pendKind
  case rdCoil =>
    by_cases hc : rxByte rx 2 = 0x01
    · refine .inl ⟨by simp [hc], ?_⟩
      simp only [decodeRdCoil, hc, Kind.isRead, responseValue, if_true, ne_eq, not_true_eq_false, if_false]
      cases hb : (rxByte rx 3)[0] <;> rfl
    · exact .inr ⟨by simp only [if_neg hc]; decide, by simp only [if_neg hc]; exact if_pos hc⟩
  case rdU16 =>
    by_cases hc : rxByte rx 2 = 0x02
    · exact .inl ⟨by simp [hc], by simp [decodeRdU16, hc, Kind.isRead, responseValue]⟩
    · exact .inr ⟨by simp only [if_neg hc]; decide, by simp only [if_neg hc]; exact if_pos hc⟩
  case rdF32 =>
    by_cases hc : rxByte rx 2 = 0x04
    · exact .inl ⟨by simp [hc], by simp [decodeRdF32, hc, Kind.isRead, responseValue]⟩
    · exact .inr ⟨by simp only [if_neg hc]; decide, by simp only [if_neg hc]; exact if_pos hc⟩
  case wrCoil =>
    by_cases hc : rxByte rx 2 = s.txb[2] ∧ rxByte rx 3 = s.txb[3] ∧ rxByte rx 4 = s.txb[4] ∧ rxByte rx 5 = s.txb[5]
    · exact .inl ⟨by simp [hc], by simp [decodeWrCoil, hc.1, hc.2.1, hc.2.2.1, hc.2.2.2, Kind.isRead]⟩
    · refine .inr ⟨by simp [hc], ?_⟩
      simp only [if_neg hc]
      exact if_pos (by simpa only [not_and_or] using hc)
  all_goals
    by_cases hc : rxByte rx 4 = s.txb[4] ∧ rxByte rx 5 = s.txb[5]
    · exact .inl ⟨by simp [hc], by simp [decodeWrRegs, hc.1, hc.2, Kind.isRead]⟩
    · refine .inr ⟨by simp [hc], ?_⟩
      simp only [if_neg hc]
      exact if_pos (fun h => hc (be16_inj.mp h))

/-- The checks after the CRC check, from a state whose RESULT and RESULT_VALID are clear. -/
theorem concludeDec_afterCrc (rx : List Byte) (u : State) (hr : u.result = 0) (hv : u.resultValid = false) :
    let code := if rxByte rx 1 ≠ u.txb[1] then .functionMismatch else kindOutcome rx u
    concludeDec (checkFunction rx u >>= decodeKind rx) = { u with
      status := code
      result := if code = .ok then responseValue rx u.pendKind else 0x00000000
      resultValid := decide (code = .ok) && u.pendKind.isRead } := by
  simp only [bind, Except.bind]
  rcases checkFunction_cases rx u with ⟨hf, e⟩ | ⟨hf, e⟩ <;> simp only [e]
  swap
  · simp [concludeDec, hf, fail]
  rcases decodeKind_cases rx u with ⟨ho, e⟩ | ⟨ho, e⟩ <;> simp only [e]
  swap
  · simp [concludeDec, hf, ho, fail]
  cases hk : u.pendKind.isRead
  · have hz : responseValue rx u.pendKind = 0 := by
      revert hk
      cases u.pendKind <;> simp [Kind.isRead, responseValue]
    simp [concludeDec, hf, ho, finish, hz, hr, hv]
  · simp [concludeDec, hf, ho, finish, deliver]

/-- DEC's checks as a whole, with a request pending: the state they end in is given by the first failing check (`decOutcome`),
the response's value, and whether a CRC warning was recorded. -/
theorem concludeDec_checkResponse (rx : List Byte) (s : State) (hp : s.pendValid = true) :
    concludeDec (checkResponse rx (dropPending (clearOutcome s))) = { s with
      pendValid := false
      status := decOutcome rx s
      result := if decOutcome rx s = .ok then responseValue rx s.pendKind else 0x00000000
      resultValid := decide (decOutcome rx s = .ok) && s.pendKind.isRead
      crcWarn := crcWarned rx s } := by
  have hs : dropPending (clearOutcome s) =
      { s with pendValid := false, result := 0x00000000, resultValid := false, crcWarn := false } := rfl
  have hko : ∀ u : State, u.pendKind = s.pendKind → u.txb = s.txb → kindOutcome rx u = kindOutcome rx s := by
    intro u h1 h2
    simp only [kindOutcome, h1, h2]
  generalize h0 : dropPending (clearOutcome s) = s0 at hs
  have hk : s0.pendKind = s.pendKind := by rw [hs]
  have ht : s0.txb = s.txb := by rw [hs]
  have hq : s0.policy = s.policy := by rw [hs]
  unfold checkResponse
  rcases checkLength_cases rx s0.pendKind.rlen s0 with ⟨hl, e⟩ | ⟨hl, e⟩ <;> rw [e] <;> rw [hk] at hl
  swap
  · simp [bind, Except.bind, concludeDec, decOutcome, crcWarned, hp, hl, hs, fail]
  rcases checkAddress_cases rx s0 with ⟨ha, e⟩ | ⟨ha, e⟩ <;> simp only [bind, Except.bind, e] <;> rw [ht] at ha
  swap
  · simp [concludeDec, decOutcome, crcWarned, hp, hl, ha, hs, fail]
  rw [hk, ← hl]
  rcases checkCrc_cases rx s0 with ⟨hc, e⟩ | ⟨hc, hq', e⟩ | ⟨hc, hq', e⟩ <;> simp only [e]
  case inl =>
    refine (concludeDec_afterCrc rx s0 (by rw [hs]) (by rw [hs])).trans ?_
    rw [hko s0 hk ht]
    simp [decOutcome, crcWarned, hp, hl, ha, hc, hs]
  case inr.inl =>
    rw [hq] at hq'
    refine (concludeDec_afterCrc rx (warnCrc s0) (by rw [hs]; rfl) (by rw [hs]; rfl)).trans ?_
    rw [hko (warnCrc s0) hk ht]
    simp [decOutcome, crcWarned, hp, hl, ha, hc, hq', hs, warnCrc]
  case inr.inr =>
    rw [hq] at hq'
    simp [concludeDec, decOutcome, crcWarned, hp, hl, ha, hc, hq', hs, fail]

/-- DEC, said once: what it leaves in every element. -/
theorem exec_dec (rx : List Byte) (s : State) : exec (.dec rx) s = .next { s with
      pendValid := false
      status := decOutcome rx s
      result := if decOutcome rx s = .ok then responseValue rx s.pendKind else 0x00000000
      resultValid := decide (decOutcome rx s = .ok) && s.pendKind.isRead
      crcWarn := crcWarned rx s } := by
  simp only [exec, execDec]
  cases hp : s.pendValid
  · simp [finish, clearOutcome, decOutcome, crcWarned, hp]
  · rw [if_pos rfl, concludeDec_checkResponse rx s hp]

/-- A response whose first four checks pass: only the kind decides the code, and CRC_WARN is the mismatch (R124). -/
theorem decOutcome_of_checks {rx : List Byte} {s : State} (hp : s.pendValid = true) (hl : rx.length = s.pendKind.rlen)
    (ha : rxByte rx 0 = s.txb[0]) (hf : rxByte rx 1 = s.txb[1])
    (hc : crcMismatch rx = false ∨ s.policy = .lenient) :
    decOutcome rx s = kindOutcome rx s ∧ crcWarned rx s = crcMismatch rx := by
  rcases hc with hc | hc <;> simp [decOutcome, crcWarned, hp, hl, ha, hf, hc]

/-- The field test on a sequence with a CRC field. -/
theorem crcMismatch_append (body : List Byte) (cl ch : Byte) :
    crcMismatch (body ++ [cl, ch]) = (crc16 body != be16 ch cl) := by
  simp [crcMismatch, rxByte]

/-- A sealed frame passes the CRC check. -/
@[simp] theorem crcMismatch_frame (body : List Byte) : crcMismatch (frame body) = false := by
  simp [frame, crcBytes, crcMismatch_append]

/-- Before the CRC field a frame reads as its body. -/
theorem rxByte_frame (body : List Byte) {i : Nat} (h : i < body.length) : rxByte (frame body) i = rxByte body i := by
  simp [rxByte, frame, List.getElem?_append, h]

theorem kindOutcome_cases (rx : List Byte) (s : State) :
    kindOutcome rx s = .ok ∨ kindOutcome rx s = .unexpectedByteCount ∨ kindOutcome rx s = .echoMismatch := by
  unfold kindOutcome
  split <;> split <;> simp

end Sys2Proof.Machine
end

