-- ==== Sys2Proof/Laws/Step.lean ====
section
/-! SUPPORT. What a command and a step can do, said once (spec/00_scope.md R11). -/

namespace Sys2Proof.Machine

/-- The effect of any command, by shape: a request latched, a DEC, a CRC result, a control command. -/
theorem exec_cases (i : Instr) (s : State) :
    (∃ k body, i.request = some (k, body) ∧ exec i s = .next (encodeRequest k body s)) ∨
    (∃ rx, i = .dec rx) ∨
    (i.isCrc = true ∧ ∃ v, exec i s = .next { s with acc := v }) ∨
    (i = .nop ∧ exec i s = .next s) ∨
    (∃ p, i = .setPolicy p ∧ exec i s = .next { s with policy := p, status := .ok }) ∨
    (∃ e, i = .illegal e ∧ exec i s = .next { s with status := .illegalCommand }) := by
  cases i
  case nop => exact .inr (.inr (.inr (.inl ⟨rfl, rfl⟩)))
  case crcInit => exact .inr (.inr (.inl ⟨rfl, _, rfl⟩))
  case crcUpdate b => exact .inr (.inr (.inl ⟨rfl, _, rfl⟩))
  case crcCompute buf => exact .inr (.inr (.inl ⟨rfl, _, rfl⟩))
  case setPolicy p => exact .inr (.inr (.inr (.inr (.inl ⟨p, rfl, rfl⟩))))
  case dec rx => exact .inr (.inl ⟨rx, rfl⟩)
  case illegal e => exact .inr (.inr (.inr (.inr (.inr ⟨e, rfl, rfl⟩))))
  all_goals exact .inl ⟨_, _, rfl, exec_encode rfl s⟩

/-- No command looks at the rest of the stream, and none writes it. -/
theorem exec_withStream (i : Instr) (s : State) (bs : List Byte) :
    exec i { s with stream := bs } = mapNext (fun t => { t with stream := bs }) (exec i s) := by
  cases i
  case dec rx =>
    rw [exec_dec, exec_dec]
    rfl
  all_goals rfl

/-- A next state of a step is that of the command at the head of the stream. -/
theorem step_cases {s t : State} (h : step s = .next t) :
    ∃ i rest, decode s.stream = .ok (i, rest) ∧ exec i { s with stream := rest } = .next t := by
  unfold step at h
  split at h
  next i rest hd => exact ⟨i, rest, hd, h⟩
  all_goals cases h

/-- A list of commands goes on from the first command's next state. -/
theorem runCommands_cons {i : Instr} {s t : State} (h : exec i s = .next t) (is : List Instr) :
    runCommands (i :: is) s = runCommands is t := by
  simp only [runCommands, h]

/-- A run of CRC_UPDATE commands steps ACC through their bytes. -/
theorem runCommands_crcUpdates (xs : List Byte) (is : List Instr) (s : State) :
    runCommands (xs.map .crcUpdate ++ is) s = runCommands is { s with acc := xs.foldl crcStep s.acc } := by
  induction xs generalizing s with
  | nil => rfl
  | cons x xs ih => exact (runCommands_cons rfl _).trans (ih _)

end Sys2Proof.Machine
end

