-- ==== Sys2Proof/Laws/Transaction.lean ====
section
/-! SUPPORT. What the host's transaction and its calls on an open port can do, each said once (spec/60_exceptions.md R176,
R177). -/

namespace Sys2Proof.Machine

@[simp] theorem openPort_handle (port : String) (line : Config.LineSettings) (h : Handle) :
    openPort port line (.handle h) = .ok h := rfl
@[simp] theorem openPort_openError (port : String) (line : Config.LineSettings) :
    openPort port line .openError = .error .portOpenFailure := rfl
@[simp] theorem closePort_eq (h : Handle) (s : State) : closePort h s = s := rfl

@[simp] theorem short_ioError {n : Nat} (txlen : Nat) : (WriteAnswer.ioError : WriteAnswer n).short txlen = true := rfl
@[simp] theorem short_wrote {n : Nat} (txlen : Nat) (c : Fin (n + 1)) :
    (WriteAnswer.wrote c).short txlen = decide (c.val < txlen) := rfl

/-- What a read of a kind's response answers, DEC can carry: at most 9 bytes (R176, spec/30_encoding.md R61). -/
theorem ReadAnswer.dec_wellFormed {k : Kind} (r : ReadAnswer k.rlen) : (Instr.dec r.bytes).wellFormed = true := by
  have hk : k.rlen ≤ 9 := by cases k <;> decide
  simp only [Instr.wellFormed, decide_eq_true_eq]
  exact r.inRange.trans (hk.trans (by decide))

/-- The encode command of an accessor asks for a request of the accessor's kind. -/
theorem Accessor.command_request (a : Accessor) : ∃ body, a.command.request = some (a.kind, body) := by
  cases a <;> exact ⟨_, rfl⟩

/-- TXLEN after a request is built is the length of the kind's request. -/
theorem encodeRequest_txlen_toNat {i : Instr} {k : Kind} {body : List Byte} (hr : i.request = some (k, body)) (s : State) :
    (encodeRequest k body s).txlen.toNat = k.requestLength := by
  have hl := request_length hr
  have hb := requestLength_le k
  simp only [encodeRequest_txlen, BitVec.toNat_ofNat]
  omega

/-- What the host has done when the write of a request has been answered. -/
def sentEvents (h : Handle) (a : Accessor) (body : List Byte) : List HostEvent :=
  [.command a.command, .write h (frame body) (Config.writeTimeout a.kind.requestLength)]

/-- What the host does after a write of the whole frame. -/
def receivedEvents (h : Handle) (k : Kind) (rx : List Byte) : List HostEvent :=
  [.wait Config.settleInterval, .read h k.rlen (Config.readTimeout k.rlen), .command (.dec rx)]

/-- A transaction, said once: the request is built and its frame handed to the transport, and DEC of the bytes received follows
unless the write was short. -/
theorem transaction_eq {a : Accessor} {body : List Byte} (hr : a.command.request = some (a.kind, body)) (h : Handle)
    (w : Transport a.kind) (s : State) :
    transaction h a w s =
      if w.write.short a.kind.requestLength then .next ⟨encodeRequest a.kind body s, .shortWrite, sentEvents h a body⟩
      else mapNext (fun u => ⟨u, reportOf u, sentEvents h a body ++ receivedEvents h a.kind w.read.bytes⟩)
        (exec (.dec w.read.bytes) (encodeRequest a.kind body s)) := by
  have hd := exec_dec w.read.bytes (encodeRequest a.kind body s)
  have hf : txFrame (encodeRequest a.kind body s) = frame body :=
    txFrame_encodeRequest _ _ s ((request_length hr).trans_le (requestLength_le _).2)
  simp only [transaction, accessorScript, runHost, exec_encode hr s, encodeRequest_txlen_toNat hr s, hf, hd,
    mapNext, sentEvents, receivedEvents, List.nil_append, List.cons_append]

/-- A read that ended in IOError makes DEC report ShortRead (R177; spec/92_eei_decisions.md D21). -/
theorem decOutcome_of_ioError {k : Kind} {r : ReadAnswer k.rlen} {s : State} (hr : r.ioError = true)
    (hp : s.pendValid = true) (hk : s.pendKind = k) : decOutcome r.bytes s = .shortRead := by
  have hl : r.bytes.length ≠ s.pendKind.rlen := by rw [hk]; exact (r.failsShort hr).ne
  simp [decOutcome, hp, hl]

/-- Every transaction ends. -/
theorem transaction_completes (h : Handle) (a : Accessor) (w : Transport a.kind) (s : State) :
    ∃ e, transaction h a w s = .next e := by
  obtain ⟨body, hr⟩ := a.command_request
  rw [transaction_eq hr, exec_dec]
  split
  · exact ⟨_, rfl⟩
  · exact ⟨_, rfl⟩

/-- Calls go on from the state the first transaction left. -/
theorem runCalls_cons {h : Handle} {c : Call} {s : State} {e : Ended Report}
    (hc : transaction h c.accessor c.transport s = .next e) (calls : List Call) :
    runCalls h (c :: calls) s =
      mapNext (fun rest => ⟨rest.block, e.report :: rest.report, e.events ++ rest.events⟩) (runCalls h calls e.block) := by
  simp only [runCalls, hc]
  cases runCalls h calls e.block <;> rfl

/-- Every list of calls ends, with one report a call. -/
theorem runCalls_completes (h : Handle) (calls : List Call) (s : State) :
    ∃ e, runCalls h calls s = .next e ∧ e.report.length = calls.length := by
  induction calls generalizing s with
  | nil => exact ⟨_, rfl, rfl⟩
  | cons c calls ih =>
    obtain ⟨e, hc⟩ := transaction_completes h c.accessor c.transport s
    obtain ⟨rest, hu, hl⟩ := ih e.block
    exact ⟨_, by rw [runCalls_cons hc, hu]; rfl, by simp [hl]⟩

end Sys2Proof.Machine
end

