-- ==== Sys2Proof/Tests/Slice0.lean ====
section
/-! SUPPORT. The model's own tests: the WellFormed smoke tests, the words of every command, one or two vectors of
spec/95_test_vectors.md per command, and for every statement with hypotheses a concrete case that meets them. -/

namespace Sys2Proof.Tests

open Sys2Proof Sys2Proof.Machine

/-- One field of the next state, if there is one. -/
def field {α : Type} (f : State → α) : Host.Outcome State Fault Refusal → Option α
  | .next t => some (f t)
  | .fault _ => none
  | .refused _ => none

/-- The answer of a step that does not go on. -/
def stop : Host.Outcome State Fault Refusal → Option Refusal
  | .next _ => none
  | .fault _ => none
  | .refused r => some r

/-- What a test reads after DEC: STATUS, RESULT, RESULT_VALID, CRC_WARN, PEND_VALID. -/
def outcome (s : State) : Status × Word × Bool × Bool × Bool :=
  (s.status, s.result, s.resultValid, s.crcWarn, s.pendValid)

/-- The reset state with bytes issued. -/
def issued (bs : List Byte) : State := { State.reset with stream := bs }

/-! States after the encode commands E1, E5, E7, E8, E10, E12 of spec/95_test_vectors.md. -/
def e1 : State := encodeRequest .rdCoil [0x01, 0x01, 0x00, 0x00, 0x00, 0x01] State.reset
def e5 : State := encodeRequest .rdU16 [0x01, 0x03, 0x0A, 0x34, 0x00, 0x01] State.reset
def e7 : State := encodeRequest .rdF32 [0x01, 0x03, 0x0A, 0x34, 0x00, 0x02] State.reset
def e8 : State := encodeRequest .wrCoil [0x01, 0x05, 0x00, 0x00, 0x00, 0x01] State.reset
def e10 : State := encodeRequest .wrU16 [0x01, 0x10, 0x00, 0x00, 0x00, 0x01, 0x02, 0x00, 0x01] State.reset
def e12 : State :=
  encodeRequest .wrF32 [0x01, 0x10, 0x0A, 0x34, 0x00, 0x02, 0x04, 0x40, 0x1D, 0xE3, 0x54] State.reset

/-- The same state under the policy LENIENT. -/
def lenient (s : State) : State := { s with policy := .lenient }

/-! ### WellFormed: an ill-formed term for each check -/

theorem test_wf_refuses_long_compute : (Instr.crcCompute (List.replicate 256 0x00)).wellFormed = false := by decide +kernel
theorem test_wf_refuses_long_dec : (Instr.dec (List.replicate 256 0x00)).wellFormed = false := by decide +kernel
theorem test_wf_refuses_assigned_opcode : (Instr.illegal (.opcode 0x20)).wellFormed = false := by decide
theorem test_wf_refuses_legal_policy : (Instr.illegal (.policy 0x01)).wellFormed = false := by decide
theorem test_wf_refuses_legal_coil : (Instr.illegal (.coil 0x01 0x0000 0x00)).wellFormed = false := by decide

/-! ### Decode: the bytes of every command, from the map of spec/30_encoding.md R63 -/

theorem test_decode_nop : decode [0x00, 0x01] = .ok (.nop, [0x01]) := by rfl
theorem test_decode_crcInit : decode [0x01] = .ok (.crcInit, []) := by rfl
theorem test_decode_crcUpdate : decode [0x02, 0x84, 0x00] = .ok (.crcUpdate 0x84, [0x00]) := by rfl
theorem test_decode_crcCompute : decode [0x03, 0x02, 0xAA, 0xBB, 0xCC] = .ok (.crcCompute [0xAA, 0xBB], [0xCC]) := by rfl
theorem test_decode_setPolicy : decode [0x04, 0x01] = .ok (.setPolicy .lenient, []) := by rfl
theorem test_decode_encRdCoil : decode [0x10, 0xF7, 0x01, 0x02] = .ok (.encRdCoil 0xF7 0x0102, []) := by rfl
theorem test_decode_encRdU16 : decode [0x11, 0x01, 0x0A, 0x34] = .ok (.encRdU16 0x01 0x0A34, []) := by rfl
theorem test_decode_encRdF32 : decode [0x12, 0x01, 0x0A, 0x34] = .ok (.encRdF32 0x01 0x0A34, []) := by rfl
theorem test_decode_encWrCoil : decode [0x13, 0x01, 0x00, 0x07, 0x01] = .ok (.encWrCoil 0x01 0x0007 true, []) := by rfl
theorem test_decode_encWrU16 : decode [0x14, 0x01, 0x00, 0x07, 0x12, 0x34] = .ok (.encWrU16 0x01 0x0007 0x1234, []) := by rfl
theorem test_decode_encWrF32 :
    decode [0x15, 0x01, 0x0A, 0x34, 0x40, 0x1D, 0xE3, 0x54] = .ok (.encWrF32 0x01 0x0A34 0x401DE354, []) := by rfl
theorem test_decode_dec : decode [0x20, 0x03, 0x01, 0x02, 0x03, 0x00] = .ok (.dec [0x01, 0x02, 0x03], [0x00]) := by rfl
theorem test_decode_illegal_opcode : decode [0x7E, 0x00] = .ok (.illegal (.opcode 0x7E), [0x00]) := by rfl
theorem test_decode_illegal_policy : decode [0x04, 0x02] = .ok (.illegal (.policy 0x02), []) := by rfl
theorem test_decode_illegal_coil : decode [0x13, 0x01, 0x00, 0x00, 0x02] = .ok (.illegal (.coil 0x01 0x0000 0x02), []) := by rfl
theorem test_decode_incomplete : decode [0x20, 0x02, 0x01] = .error .incompleteCommand := by rfl

/-! ### One step per command, expected values from spec/95_test_vectors.md -/

/-- Q1. -/
theorem test_nop : field id (step (issued [0x00])) = some State.reset := by decide +kernel
/-- V20. -/
theorem test_crcInit : field State.acc (exec .crcInit { State.reset with acc := 0x0A84 }) = some 0xFFFF := by decide
/-- V22. -/
theorem test_crcUpdate : field State.acc (exec (.crcUpdate 0x84) { State.reset with acc := 0x0A84 }) = some 0x000A := by
  decide +kernel
/-- V23. -/
theorem test_crcCompute :
    field State.acc (step (issued [0x03, 0x06, 0x01, 0x03, 0x00, 0x00, 0x00, 0x01])) = some 0x0A84 := by decide +kernel
/-- V6, the published check value. -/
theorem test_crc16_check_value :
    crc16 [0x31, 0x32, 0x33, 0x34, 0x35, 0x36, 0x37, 0x38, 0x39] = 0x4B37 := by decide +kernel
/-- Q2. -/
theorem test_setPolicy : field (fun t => (t.policy, t.status)) (step (issued [0x04, 0x01])) = some (.lenient, .ok) := by decide
/-- E3. -/
theorem test_encRdCoil : field txFrame (step (issued [0x10, 0xF7, 0xFF, 0xFF])) =
    some [0xF7, 0x01, 0xFF, 0xFF, 0x00, 0x01, 0xE9, 0x78] := by decide +kernel
/-- E6. -/
theorem test_encRdU16 : field txFrame (step (issued [0x11, 0x00, 0x00, 0x00])) =
    some [0x00, 0x03, 0x00, 0x00, 0x00, 0x01, 0x85, 0xDB] := by decide +kernel
/-- E7. -/
theorem test_encRdF32 : field txFrame (step (issued [0x12, 0x01, 0x0A, 0x34])) =
    some [0x01, 0x03, 0x0A, 0x34, 0x00, 0x02, 0x86, 0x1D] := by decide +kernel
/-- E8. -/
theorem test_encWrCoil : field txFrame (step (issued [0x13, 0x01, 0x00, 0x00, 0x01])) =
    some [0x01, 0x05, 0x00, 0x00, 0x00, 0x01, 0x0C, 0x0A] := by decide +kernel
/-- E14: a shorter frame after E12 leaves no byte of it. -/
theorem test_encWrU16 : field (fun t => (t.txb.toList, t.txlen)) (exec (.encWrU16 0x01 0x0000 0x0001) e12) =
    some ([0x01, 0x10, 0x00, 0x00, 0x00, 0x01, 0x02, 0x00, 0x01, 0x67, 0x90, 0x00, 0x00], 11) := by decide +kernel
/-- E12. -/
theorem test_encWrF32 : field txFrame (step (issued [0x15, 0x01, 0x0A, 0x34, 0x40, 0x1D, 0xE3, 0x54])) =
    some [0x01, 0x10, 0x0A, 0x34, 0x00, 0x02, 0x04, 0x40, 0x1D, 0xE3, 0x54, 0x42, 0xE1] := by decide +kernel
/-- T3: only bit 0 of the status byte is read. -/
theorem test_dec_coil_bit_zero : field outcome (exec (.dec [0x01, 0x01, 0x01, 0xFE, 0xD0, 0x08]) e1) =
    some (.ok, 0x00000000, true, false, false) := by decide +kernel
/-- T20: a CRC warning stays when a later check fails. -/
theorem test_dec_warning_kept : field outcome (exec (.dec [0x01, 0x04, 0x02, 0x12, 0x34, 0xB5, 0x33]) (lenient e5)) =
    some (.functionMismatch, 0x00000000, false, true, false) := by decide +kernel
/-- T25: a NaN pattern passes through. -/
theorem test_dec_float_pattern :
    field outcome (exec (.dec [0x01, 0x03, 0x04, 0x7F, 0xC0, 0x00, 0x01, 0x22, 0x1B]) e7) =
    some (.ok, 0x7FC00001, true, false, false) := by decide +kernel
/-- T30: the standard MODBUS echo is no echo of this request. -/
theorem test_dec_echo : field outcome (exec (.dec [0x01, 0x05, 0x00, 0x00, 0xFF, 0x00, 0x8C, 0x3A]) e8) =
    some (.echoMismatch, 0x00000000, false, false, false) := by decide +kernel
/-- T34, T36: the quantity counts, the echoed register address does not. -/
theorem test_dec_quantity : field outcome (exec (.dec [0x01, 0x10, 0x12, 0x34, 0x00, 0x01, 0x45, 0x7F]) e10) =
      some (.ok, 0x00000000, false, false, false) ∧
    field outcome (exec (.dec [0x01, 0x10, 0x0A, 0x34, 0x00, 0x01, 0x43, 0xDF]) e12) =
      some (.unexpectedByteCount, 0x00000000, false, false, false) := by decide +kernel
/-- Q5: one byte is consumed. -/
theorem test_illegal : field (fun t => (t.status, t.stream)) (step (issued [0x07, 0x00])) = some (.illegalCommand, [0x00]) := by
  decide
/-- Q7. -/
theorem test_stuck : stop (step (issued [0x02])) = some .awaitingOperands := by decide
/-- The host's word of a row is the very next command: DEC with no bytes, and the next word after it. -/
theorem test_withFetchWord :
    field (fun t => (t.status, t.stream)) (step (State.reset.withFetchWord 8 0x20)) = some (.noPendingRequest, []) := by
  decide +kernel
/-- P1's residue, as an opcode-table word of eighty bits. -/
theorem test_decodeTableWord :
    decodeTableWord 80 0x0A840100000003010803 =
      some (.crcCompute [0x01, 0x03, 0x00, 0x00, 0x00, 0x01, 0x84, 0x0A]) := by decide +kernel

/-! ### Witnesses: concrete cases that meet the hypotheses of the statements -/

/-- CommandMapDecodes, CrcComputeEqualsStreaming: the length byte at both ends of its range. -/
theorem witness_length_byte :
    ([] : List Byte).length = (0x00 : Byte).toNat ∧ (List.replicate 255 (0x00 : Byte)).length = (0xFF : Byte).toNat := by
  decide +kernel
/-- DecodingAnEncodedCommandGivesItBack: well-formed commands, at the longest and of every illegal
form. -/
theorem witness_wellFormed : (Instr.dec (List.replicate 255 0x00)).wellFormed = true ∧
    (Instr.crcCompute []).wellFormed = true ∧ (Instr.illegal (.opcode 0xFF)).wellFormed = true ∧
    (Instr.illegal (.policy 0x02)).wellFormed = true ∧ (Instr.illegal (.coil 0x01 0x0000 0xFF)).wellFormed = true := by
  decide +kernel
/-- EveryDecodedCommandIsItsEncoding, StepRunsTheDecodedCommand: bytes that decode, with bytes after them. -/
theorem witness_decodes : decode (issued [0x04, 0x00, 0x00]).stream = .ok (.setPolicy .strict, [0x00]) := by rfl
/-- TruncatedCommandIsNotStarted: nothing of a command, and all but its last byte. -/
theorem witness_truncated : (Instr.encRdCoil 0x01 0x0102).wellFormed = true ∧
    0 < (encode (.encRdCoil 0x01 0x0102)).length ∧ (issued []).stream = (encode (.encRdCoil 0x01 0x0102)).take 0 ∧
    3 < (encode (.encRdCoil 0x01 0x0102)).length ∧
    (issued [0x10, 0x01, 0x01]).stream = (encode (.encRdCoil 0x01 0x0102)).take 3 := by decide
/-- IllegalEncodingsSetStatusOnly: the ends of the three opcode ranges. -/
theorem witness_illegal_opcodes : opcodeOf 0x05 = none ∧ opcodeOf 0x0F = none ∧ opcodeOf 0x16 = none ∧
    opcodeOf 0x1F = none ∧ opcodeOf 0x21 = none ∧ opcodeOf 0xFF = none ∧ opcodeOf 0x04 ≠ none ∧ opcodeOf 0x10 ≠ none ∧
    opcodeOf 0x15 ≠ none ∧ opcodeOf 0x20 ≠ none := by decide
/-- IllegalEncodingsSetStatusOnly, SetPolicyWritesPolicyAndStatus, EncWrCoilBuildsItsRequest: illegal operand bytes. -/
theorem witness_illegal_operands : (0x02 : Byte) ≠ 0x00 ∧ (0x02 : Byte) ≠ 0x01 ∧ (0xFF : Byte) ≠ 0x00 ∧
    (0xFF : Byte) ≠ 0x01 := by decide
/-- CrcStepIsEightShifts: a function that is the iteration. -/
theorem witness_crcBit : ∀ x : Half, crcBit x = if x[0] = true then (x >>> 1) ^^^ 0xA001 else x >>> 1 := fun _ => rfl
/-- OneChangedByteChangesTheCrc: two bytes that differ in one bit. -/
theorem witness_changed_byte : (0x3F : Byte) ≠ 0x3E := by decide
/-- EveryEncodeLatchesItsFrame, LoopBackPassesOnlyForWriteCoil, PendKindNamesTheRequest: an encode command that loops back and
one that does not. -/
theorem witness_request :
    Instr.request (.encWrCoil 0x01 0x0000 true) = some (.wrCoil, [0x01, 0x05, 0x00, 0x00, 0x00, 0x01]) ∧
    Instr.request (.encRdU16 0x01 0x0A34) = some (.rdU16, [0x01, 0x03, 0x0A, 0x34, 0x00, 0x01]) := by decide
/-- FramesEndInTheirCrc, ElementsChangeOnlyByTheirWriters, AccIsTheCrcCommandsAlone and the other rules over all commands: each
class of commands has a member, and NOP is in none. -/
theorem witness_classes : (Instr.encRdF32 0x01 0x0A34).isEncode = true ∧ (Instr.dec []).isDec = true ∧
    (Instr.crcUpdate 0x01).isCrc = true ∧ (Instr.setPolicy .lenient).isSetPolicy = true ∧
    (Instr.illegal (.opcode 0x07)).isIllegal = true ∧ Instr.nop.isEncode = false ∧ Instr.nop.isDec = false ∧
    Instr.nop.isCrc = false ∧ Instr.nop.isSetPolicy = false ∧ Instr.nop.isIllegal = false := by decide
/-- StatusCodesAndTheHostsOwn: a state whose STATUS is the block's own. -/
theorem witness_own_status : State.reset.status ≠ .shortWrite ∧ State.reset.status ≠ .portOpenFailure := by decide
/-- EveryStepKeepsTheInvariant: a state with a pending request and a command on its stream meets the invariant and steps. -/
theorem witness_invariant : ({ e5 with stream := [0x20, 0x00] } : State).Inv ∧
    ∃ t, step { e5 with stream := [0x20, 0x00] } = .next t := by
  refine ⟨⟨?_, ?_, ?_, ?_, ?_, ?_, ?_, ?_⟩, _, rfl⟩
  · decide +kernel
  · intro _
    exact ⟨.encRdU16 0x01 0x0A34, _, rfl, by decide +kernel, by decide +kernel⟩
  all_goals decide +kernel
/-- CommandsTakeEffectInOrder: a program of two commands with more bytes after it. -/
theorem witness_program : (∀ i ∈ [Instr.crcInit, .setPolicy .lenient], i.wellFormed = true) ∧
    (issued [0x01, 0x04, 0x01, 0xFF]).stream = programBytes [.crcInit, .setPolicy .lenient] ++ [0xFF] := by decide
/-- DecWithoutARequestReportsIt. -/
theorem witness_no_request : State.reset.pendValid = false := by decide
/-- WrongLengthIsShortRead: one byte short, one byte long, and none (T6, T14, T15). -/
theorem witness_wrong_length : e5.pendValid = true ∧ ([] : List Byte).length ≠ e5.pendKind.rlen ∧
    (List.replicate 6 (0x01 : Byte)).length ≠ e5.pendKind.rlen ∧
    (List.replicate 8 (0x01 : Byte)).length ≠ e5.pendKind.rlen := by decide
/-- WrongDeviceIsAddressMismatch (T10). -/
theorem witness_wrong_device : e5.pendValid = true ∧
    ([0x02, 0x03, 0x02, 0x12, 0x34, 0xF1, 0x33] : List Byte).length = e5.pendKind.rlen ∧
    rxByte [0x02, 0x03, 0x02, 0x12, 0x34, 0xF1, 0x33] 0 ≠ e5.txb[0] := by decide +kernel
/-- CrcMismatchFollowsThePolicy: a mismatch under each policy (T16, T17), and a response without one (T7). -/
theorem witness_crc_mismatch : e5.pendValid = true ∧
    ([0x01, 0x03, 0x02, 0x12, 0x34, 0xB5, 0x34] : List Byte).length = e5.pendKind.rlen ∧
    rxByte [0x01, 0x03, 0x02, 0x12, 0x34, 0xB5, 0x34] 0 = e5.txb[0] ∧
    crcMismatch [0x01, 0x03, 0x02, 0x12, 0x34, 0xB5, 0x34] = true ∧ e5.policy = .strict ∧ (lenient e5).policy = .lenient ∧
    (lenient e5).pendValid = true ∧ rxByte [0x01, 0x03, 0x02, 0x12, 0x34, 0xB5, 0x34] 0 = (lenient e5).txb[0] ∧
    crcMismatch [0x01, 0x03, 0x02, 0x12, 0x34, 0xB5, 0x33] = false := by decide +kernel
/-- PoliciesAgreeOnAGoodCrc (T7). -/
theorem witness_good_crc : crcMismatch [0x01, 0x03, 0x02, 0x12, 0x34, 0xB5, 0x33] = false := by decide +kernel
/-- WrongFunctionIsFunctionMismatch: with a good CRC (T11), and with a bad one under LENIENT (T20). -/
theorem witness_wrong_function :
    ([0x01, 0x04, 0x02, 0x12, 0x34, 0xB4, 0x47] : List Byte).length = e5.pendKind.rlen ∧ e5.pendValid = true ∧
    rxByte [0x01, 0x04, 0x02, 0x12, 0x34, 0xB4, 0x47] 0 = e5.txb[0] ∧
    crcMismatch [0x01, 0x04, 0x02, 0x12, 0x34, 0xB4, 0x47] = false ∧
    rxByte [0x01, 0x04, 0x02, 0x12, 0x34, 0xB4, 0x47] 1 ≠ e5.txb[1] ∧
    crcMismatch [0x01, 0x04, 0x02, 0x12, 0x34, 0xB5, 0x33] = true ∧ (lenient e5).policy = .lenient ∧
    rxByte [0x01, 0x04, 0x02, 0x12, 0x34, 0xB5, 0x33] 1 ≠ (lenient e5).txb[1] := by decide +kernel
/-- FailedDecLeavesNoValue: a failure with a warning and one without (T20, T5). -/
theorem witness_failed_dec : decOutcome [0x01, 0x04, 0x02, 0x12, 0x34, 0xB5, 0x33] (lenient e5) ≠ .ok ∧
    decOutcome [0x01, 0x01, 0x02, 0x01, 0x90, 0xB8] e1 ≠ .ok := by decide +kernel
/-- ReadCoilDecodesBitZero: the count right with a good CRC (T1), and wrong (T5). -/
theorem witness_read_coil : e1.pendValid = true ∧ e1.pendKind = .rdCoil ∧ 0x01 = e1.txb[0] ∧ 0x01 = e1.txb[1] ∧
    crcMismatch [0x01, 0x01, 0x01, 0x01, 0x90, 0x48] = false ∧ crcMismatch [0x01, 0x01, 0x02, 0x01, 0x90, 0xB8] = false := by
  decide +kernel
/-- ReadRegisterDecodesItsValue: T7, T12, and T17 under LENIENT. -/
theorem witness_read_register : e5.pendValid = true ∧ e5.pendKind = .rdU16 ∧ 0x01 = e5.txb[0] ∧ 0x03 = e5.txb[1] ∧
    crcMismatch [0x01, 0x03, 0x02, 0x12, 0x34, 0xB5, 0x33] = false ∧
    crcMismatch [0x01, 0x03, 0x04, 0x12, 0x34, 0x55, 0x32] = false ∧ (lenient e5).policy = .lenient := by decide +kernel
/-- ReadFloatDecodesThePattern: T21, T27. -/
theorem witness_read_float : e7.pendValid = true ∧ e7.pendKind = .rdF32 ∧ 0x01 = e7.txb[0] ∧ 0x03 = e7.txb[1] ∧
    crcMismatch [0x01, 0x03, 0x04, 0x3F, 0x1E, 0x00, 0x00, 0x96, 0x21] = false ∧
    crcMismatch [0x01, 0x03, 0x02, 0x3F, 0x1E, 0x00, 0x00, 0x1E, 0x21] = false := by decide +kernel
/-- WriteCoilNeedsItsEcho: T29, T31. -/
theorem witness_write_coil : e8.pendValid = true ∧ e8.pendKind = .wrCoil ∧ 0x01 = e8.txb[0] ∧ 0x05 = e8.txb[1] ∧
    crcMismatch [0x01, 0x05, 0x00, 0x00, 0x00, 0x01, 0x0C, 0x0A] = false ∧
    crcMismatch [0x01, 0x05, 0x00, 0x01, 0x00, 0x01, 0x5D, 0xCA] = false := by decide +kernel
/-- WriteRegistersNeedTheQuantity: both kinds, T32, T33, T35. -/
theorem witness_write_registers : e10.pendValid = true ∧ (e10.pendKind = .wrU16 ∨ e10.pendKind = .wrF32) ∧
    0x01 = e10.txb[0] ∧ 0x10 = e10.txb[1] ∧ crcMismatch [0x01, 0x10, 0x00, 0x00, 0x00, 0x01, 0x01, 0xC9] = false ∧
    crcMismatch [0x01, 0x10, 0x00, 0x00, 0x00, 0x02, 0x41, 0xC8] = false ∧ e12.pendKind = .wrF32 ∧ 0x10 = e12.txb[1] ∧
    crcMismatch [0x01, 0x10, 0x0A, 0x34, 0x00, 0x02, 0x03, 0xDE] = false := by decide +kernel
/-- OneCorruptedByteIsDetected: S5's response, its first two bytes and its last byte before the CRC field (S6). -/
theorem witness_corrupted : e7.pendValid = true ∧ e7.policy = .strict ∧
    decOutcome [0x01, 0x03, 0x04, 0x3F, 0x1E, 0x00, 0x00, 0x96, 0x21] e7 = .ok ∧ 0 + 2 < 9 ∧ 1 + 2 < 9 ∧ 6 + 2 < 9 ∧
    (0x00 : Byte) ≠ rxByte [0x01, 0x03, 0x04, 0x3F, 0x1E, 0x00, 0x00, 0x96, 0x21] 0 ∧
    (0x02 : Byte) ≠ rxByte [0x01, 0x03, 0x04, 0x3F, 0x1E, 0x00, 0x00, 0x96, 0x21] 1 ∧
    (0x80 : Byte) ≠ rxByte [0x01, 0x03, 0x04, 0x3F, 0x1E, 0x00, 0x00, 0x96, 0x21] 6 := by decide +kernel

/-- The transport writes `n` bytes and reads `rx` without an error. -/
def link {k : Kind} (n : Fin (k.requestLength + 1)) (rx : List Byte) (h : rx.length ≤ k.rlen) : Transport k :=
  ⟨.wrote n, ⟨rx, false, h, Bool.noConfusion⟩⟩

/-- TransactionIsEncodeThenDec: one byte too few and exactly enough for each length of frame, none, and an IOError; reads that
end in an IOError with no byte, and with all bytes but the last. -/
theorem witness_write_answers : ((7 : Fin 9).val < 8 ∧ 8 ≤ (8 : Fin 9).val) ∧ ((10 : Fin 12).val < 11 ∧ 11 ≤ (11 : Fin 12).val) ∧
    ((12 : Fin 14).val < 13 ∧ 13 ≤ (13 : Fin 14).val) ∧ (0 : Fin 9).val < 8 ∧
    (⟨.ioError, ⟨[], true, by decide, by decide⟩⟩ : Transport .rdU16).write = .ioError ∧
    (⟨.wrote 8, ⟨[], true, by decide, by decide⟩⟩ : Transport .rdU16).read.ioError = true ∧
    (⟨.wrote 8, ⟨[0x01, 0x03, 0x02, 0x12, 0x34, 0xB5], true, by decide, by decide⟩⟩ : Transport .rdU16).read.ioError = true := by
  decide
/-- TransactionsReturnTheDevicesValue: for each kind the frame written whole, 8, 11 or 13 bytes, and a response of its format with
its CRC (T1, T7, T21, T29, T32, T35). -/
theorem witness_whole_frames :
    (Kind.rdCoil.requestLength ≤ (8 : Fin 9).val ∧
      (link (k := .rdCoil) 8 [0x01, 0x01, 0x01, 0x01, 0x90, 0x48] (by decide)).read.bytes =
        frame [0x01, 0x01, 0x01, 0x01]) ∧
    (Kind.rdU16.requestLength ≤ (8 : Fin 9).val ∧
      (link (k := .rdU16) 8 [0x01, 0x03, 0x02, 0x12, 0x34, 0xB5, 0x33] (by decide)).read.bytes =
        frame [0x01, 0x03, 0x02, hi8 0x1234, lo8 0x1234]) ∧
    (Kind.rdF32.requestLength ≤ (8 : Fin 9).val ∧
      (link (k := .rdF32) 8 [0x01, 0x03, 0x04, 0x3F, 0x1E, 0x00, 0x00, 0x96, 0x21] (by decide)).read.bytes =
        frame ([0x01, 0x03, 0x04] ++ wordBytes 0x3F1E0000)) ∧
    (Kind.wrCoil.requestLength ≤ (8 : Fin 9).val ∧
      (link (k := .wrCoil) 8 [0x01, 0x05, 0x00, 0x00, 0x00, 0x01, 0x0C, 0x0A] (by decide)).read.bytes =
        frame [0x01, 0x05, hi8 0x0000, lo8 0x0000, 0x00, if true then 0x01 else 0x00]) ∧
    (Kind.wrU16.requestLength ≤ (11 : Fin 12).val ∧
      (link (k := .wrU16) 11 [0x01, 0x10, 0x00, 0x00, 0x00, 0x01, 0x01, 0xC9] (by decide)).read.bytes =
        frame [0x01, 0x10, hi8 0x0000, lo8 0x0000, 0x00, 0x01]) ∧
    (Kind.wrF32.requestLength ≤ (13 : Fin 14).val ∧
      (link (k := .wrF32) 13 [0x01, 0x10, 0x0A, 0x34, 0x00, 0x02, 0x03, 0xDE] (by decide)).read.bytes =
        frame [0x01, 0x10, hi8 0x0A34, lo8 0x0A34, 0x00, 0x02]) := by decide +kernel
/-- SessionMakesEveryCallInOrder: a call whose write is short, which ends in ShortWrite (R177), between an open and a close. -/
theorem witness_session : Config.lineSettings = ⟨9600, 8, 1, false, true⟩ ∧
    (match session "P1" (.handle 3) [⟨.writeU16 0x01 0x0000 0x0001, link 10 [] (by decide)⟩] State.reset with
      | .next e => some e.report
      | .fault _ => none
      | .refused _ => none) = some (.closed [.shortWrite]) := by decide +kernel
/-- The invariant's other cases: a value stands only where it may, so a state with a value and a warning can meet them (T17). -/
theorem witness_value_and_warning :
    field outcome (exec (.dec [0x01, 0x03, 0x02, 0x12, 0x34, 0xB5, 0x34]) (lenient e5)) =
      some (.ok, 0x00001234, true, true, false) := by decide +kernel

end Sys2Proof.Tests
end

section
/-! What the decoder can answer, said once per reader of operands and once for a whole stream (spec/30_encoding.md R60 to R64):
it either reads a well-formed command, whose encoding is then exactly what it took, or says why none can start. -/

namespace Sys2Proof

@[simp] theorem halfBytes_be16 (x y : Byte) : halfBytes (be16 x y) = [x, y] := by simp [halfBytes]

theorem decodeUpdate_cases (bs : List Byte) :
    (∃ b rest, bs = b :: rest ∧ decodeUpdate bs = .ok (.crcUpdate b, rest)) ∨
    decodeUpdate bs = .error .incompleteCommand := by
  cases bs with
  | nil => exact .inr rfl
  | cons b rest => exact .inl ⟨b, rest, rfl, rfl⟩

theorem decodePolicy_cases (bs : List Byte) :
    (∃ p rest, bs = p :: rest ∧ decodePolicy bs = .ok (policyCommand p, rest)) ∨
    decodePolicy bs = .error .incompleteCommand := by
  cases bs with
  | nil => exact .inr rfl
  | cons p rest => exact .inl ⟨p, rest, rfl, rfl⟩

theorem decodeCounted_cases (make : List Byte → Instr) (bs : List Byte) :
    (∃ xs rest, xs.length ≤ maxOperandBytes ∧ bs = countedBytes xs ++ rest ∧
      decodeCounted make bs = .ok (make xs, rest)) ∨
    decodeCounted make bs = .error .incompleteCommand := by
  cases hd : decodeCounted make bs with
  | ok answer =>
    obtain ⟨xs, hlen, hmake, hbs⟩ := decodeCounted_inv hd
    exact .inl ⟨xs, answer.2, hlen, hbs, by rw [← hmake]⟩
  | error reason =>
    right
    cases bs with
    | nil => exact hd.symm
    | cons n rest =>
      simp only [decodeCounted] at hd
      split at hd
      next => cases hd
      next => exact hd.symm

theorem decodeRead_cases (make : Byte → Half → Instr) (bs : List Byte) :
    (∃ dev a rest, bs = dev :: (halfBytes a ++ rest) ∧ decodeRead make bs = .ok (make dev a, rest)) ∨
    decodeRead make bs = .error .incompleteCommand := by
  unfold decodeRead
  split
  next dev aH aL rest => exact .inl ⟨dev, be16 aH aL, rest, by simp, rfl⟩
  next => exact .inr rfl

theorem decodeWriteCoil_cases (bs : List Byte) :
    (∃ dev a v rest, bs = dev :: (halfBytes a ++ v :: rest) ∧
      decodeWriteCoil bs = .ok (coilCommand dev a v, rest)) ∨
    decodeWriteCoil bs = .error .incompleteCommand := by
  unfold decodeWriteCoil
  split
  next dev aH aL v rest => exact .inl ⟨dev, be16 aH aL, v, rest, by simp, rfl⟩
  next => exact .inr rfl

theorem decodeWriteU16_cases (bs : List Byte) :
    (∃ dev a v rest, bs = dev :: (halfBytes a ++ halfBytes v ++ rest) ∧
      decodeWriteU16 bs = .ok (.encWrU16 dev a v, rest)) ∨
    decodeWriteU16 bs = .error .incompleteCommand := by
  unfold decodeWriteU16
  split
  next dev aH aL vH vL rest => exact .inl ⟨dev, be16 aH aL, be16 vH vL, rest, by simp, rfl⟩
  next => exact .inr rfl

theorem decodeWriteF32_cases (bs : List Byte) :
    (∃ dev a f rest, bs = dev :: (halfBytes a ++ wordBytes f ++ rest) ∧
      decodeWriteF32 bs = .ok (.encWrF32 dev a f, rest)) ∨
    decodeWriteF32 bs = .error .incompleteCommand := by
  unfold decodeWriteF32
  split
  next dev aH aL f3 f2 f1 f0 rest =>
    exact .inl ⟨dev, be16 aH aL, be32 f3 f2 f1 f0, rest, by simp [wordBytes_be32], rfl⟩
  next => exact .inr rfl

/-- Whatever `p` is, SET_POLICY with it is a well-formed command of two bytes (R63, R64). -/
theorem policyCommand_encodes (p : Byte) :
    (policyCommand p).wellFormed = true ∧ encode (policyCommand p) = [Opcode.setPolicy.byte, p] := by
  obtain ⟨q, hq, rfl⟩ | ⟨hq, h0, h1⟩ := policyCommand_inv p
  · rw [hq]
    exact ⟨rfl, rfl⟩
  · rw [hq]
    exact ⟨by simpa [Instr.wellFormed, IllegalForm.wellFormed] using And.intro h0 h1, rfl⟩

/-- Whatever `v` is, ENC_WR_COIL with it is a well-formed command of five bytes (R63, R64). -/
theorem coilCommand_encodes (dev : Byte) (a : Half) (v : Byte) :
    (coilCommand dev a v).wellFormed = true ∧
    encode (coilCommand dev a v) = Opcode.encWrCoil.byte :: dev :: (halfBytes a ++ [v]) := by
  obtain ⟨q, hq, rfl⟩ | ⟨hq, h0, h1⟩ := coilCommand_inv dev a v
  · rw [hq]
    exact ⟨rfl, rfl⟩
  · rw [hq]
    exact ⟨by simpa [Instr.wellFormed, IllegalForm.wellFormed] using And.intro h0 h1, rfl⟩

/-- After an assigned opcode the decoder reads a well-formed command of that opcode, or the command is incomplete. -/
theorem decodeOperands_cases (o : Opcode) (bs : List Byte) :
    (∃ i rest, i.wellFormed = true ∧ o.byte :: bs = encode i ++ rest ∧ decodeOperands o bs = .ok (i, rest)) ∨
    decodeOperands o bs = .error .incompleteCommand := by
  cases o
  case nop => exact .inl ⟨.nop, bs, rfl, rfl, rfl⟩
  case crcInit => exact .inl ⟨.crcInit, bs, rfl, rfl, rfl⟩
  case crcUpdate =>
    refine (decodeUpdate_cases bs).imp_left ?_
    rintro ⟨b, rest, rfl, hd⟩
    exact ⟨_, rest, rfl, rfl, hd⟩
  case crcCompute | dec =>
    refine (decodeCounted_cases _ bs).imp_left ?_
    rintro ⟨xs, rest, hlen, rfl, hd⟩
    exact ⟨_, rest, by exact decide_eq_true hlen, rfl, hd⟩
  case setPolicy =>
    refine (decodePolicy_cases bs).imp_left ?_
    rintro ⟨p, rest, rfl, hd⟩
    obtain ⟨hwf, henc⟩ := policyCommand_encodes p
    exact ⟨_, rest, hwf, by rw [henc]; rfl, hd⟩
  case encRdCoil | encRdU16 | encRdF32 =>
    refine (decodeRead_cases _ bs).imp_left ?_
    rintro ⟨dev, a, rest, rfl, hd⟩
    exact ⟨_, rest, rfl, rfl, hd⟩
  case encWrCoil =>
    refine (decodeWriteCoil_cases bs).imp_left ?_
    rintro ⟨dev, a, v, rest, rfl, hd⟩
    obtain ⟨hwf, henc⟩ := coilCommand_encodes dev a v
    exact ⟨_, rest, hwf, by rw [henc]; rfl, hd⟩
  case encWrU16 =>
    refine (decodeWriteU16_cases bs).imp_left ?_
    rintro ⟨dev, a, v, rest, rfl, hd⟩
    exact ⟨_, rest, rfl, rfl, hd⟩
  case encWrF32 =>
    refine (decodeWriteF32_cases bs).imp_left ?_
    rintro ⟨dev, a, f, rest, rfl, hd⟩
    exact ⟨_, rest, rfl, rfl, hd⟩

/-- The decoder on any stream: a well-formed command and what follows it, an empty stream, or the beginning of a command. -/
theorem decode_cases (bs : List Byte) :
    (∃ i rest, i.wellFormed = true ∧ bs = encode i ++ rest ∧ decode bs = .ok (i, rest)) ∨
    (bs = [] ∧ decode bs = .error .noCommand) ∨
    (bs ≠ [] ∧ decode bs = .error .incompleteCommand) := by
  match bs with
  | [] => exact .inr (.inl ⟨rfl, rfl⟩)
  | op :: operands =>
    cases hop : opcodeOf op with
    | none =>
      refine .inl ⟨.illegal (.opcode op), operands, ?_, rfl, by simp only [decode, hop]⟩
      simp only [Instr.wellFormed, IllegalForm.wellFormed, hop, Option.isNone_none]
    | some o =>
      rw [← byte_of_opcodeOf hop, decode_byte]
      exact (decodeOperands_cases o operands).imp_right fun hd => .inr ⟨List.cons_ne_nil _ _, hd⟩

end Sys2Proof
end

section
/-! What a step does with each answer of the decoder, and that every command ends in a next state (spec/00_scope.md R11). -/

namespace Sys2Proof.Machine

theorem step_of_decode_ok {s : State} {i : Instr} {rest : List Byte} (h : decode s.stream = .ok (i, rest)) :
    step s = exec i { s with stream := rest } := by
  simp only [step, h]

theorem step_of_decode_noCommand {s : State} (h : decode s.stream = .error .noCommand) :
    step s = .refused .awaitingCommand := by
  simp only [step, h]

theorem step_of_decode_incompleteCommand {s : State} (h : decode s.stream = .error .incompleteCommand) :
    step s = .refused .awaitingOperands := by
  simp only [step, h]

/-- No arm of `exec` faults or refuses (R11). -/
theorem exec_completes (i : Instr) (s : State) : ∃ t, exec i s = .next t := by
  cases i <;> exact ⟨_, rfl⟩

/-- A command leaves the stream behind it as it found it. -/
theorem exec_stream {i : Instr} {s t : State} (h : exec i s = .next t) : t.stream = s.stream := by
  have hsame : exec i s = mapNext (fun u => { u with stream := s.stream }) (exec i s) :=
    exec_withStream i s s.stream
  rw [h] at hsame
  have ht : t = { t with stream := s.stream } := by injection hsame
  rw [ht]

end Sys2Proof.Machine
end

section
open Sys2Proof Sys2Proof.Machine

/-- Settles O8: `step` is its first branch when the stream decodes. -/
theorem stepRunsTheDecodedCommand : Obligations.StepRunsTheDecodedCommand :=
  fun _ _ _ h => step_of_decode_ok h

/-- Settles O30: the three disjuncts are the decoder's three answers, and a decoded command completes and leaves the stream
after it alone. -/
theorem everyCommandCompletes : Obligations.EveryCommandCompletes := by
  refine ⟨exec_completes, fun s => ?_⟩
  obtain ⟨i, rest, hwf, hbytes, hd⟩ | ⟨hnil, hd⟩ | ⟨hne, hd⟩ := decode_cases s.stream
  · obtain ⟨t, ht⟩ := exec_completes i { s with stream := rest }
    exact .inl ⟨i, rest, t, hwf, hbytes, (step_of_decode_ok hd).trans ht, exec_stream ht⟩
  · exact .inr (.inl ⟨step_of_decode_noCommand hd, hnil⟩)
  · exact .inr (.inr ⟨step_of_decode_incompleteCommand hd, hne⟩)

end

section
/-! The effect of every command on the state, as one elimination rule: the classes of commands exclude each other, and each
leaves the state one of the named updates gives (spec/10_state.md §8). -/

namespace Sys2Proof.Machine

/-- The state DEC ends in, whatever its outcome (R120): what `exec_dec` says DEC leaves in every element. -/
def afterDec (rx : List Byte) (s : State) : State :=
  { s with
    pendValid := false
    status := decOutcome rx s
    result := if decOutcome rx s = .ok then responseValue rx s.pendKind else 0x00000000
    resultValid := decide (decOutcome rx s = .ok) && s.pendKind.isRead
    crcWarn := crcWarned rx s }

theorem exec_dec_eq_afterDec (rx : List Byte) (s : State) : exec (.dec rx) s = .next (afterDec rx s) := exec_dec rx s

section
variable (rx : List Byte) (s : State)

@[simp] theorem afterDec_acc : (afterDec rx s).acc = s.acc := rfl
@[simp] theorem afterDec_policy : (afterDec rx s).policy = s.policy := rfl
@[simp] theorem afterDec_txb : (afterDec rx s).txb = s.txb := rfl
@[simp] theorem afterDec_txlen : (afterDec rx s).txlen = s.txlen := rfl
@[simp] theorem afterDec_pendValid : (afterDec rx s).pendValid = false := rfl
@[simp] theorem afterDec_pendKind : (afterDec rx s).pendKind = s.pendKind := rfl
@[simp] theorem afterDec_status : (afterDec rx s).status = decOutcome rx s := rfl
@[simp] theorem afterDec_result :
    (afterDec rx s).result = if decOutcome rx s = .ok then responseValue rx s.pendKind else 0x00000000 := rfl
@[simp] theorem afterDec_resultValid :
    (afterDec rx s).resultValid = (decide (decOutcome rx s = .ok) && s.pendKind.isRead) := rfl
@[simp] theorem afterDec_crcWarn : (afterDec rx s).crcWarn = crcWarned rx s := rfl
@[simp] theorem afterDec_stream : (afterDec rx s).stream = s.stream := rfl

end

/-- A command that asks for a request is an encode command and in no other class. -/
theorem classes_of_request {i : Instr} {k : Kind} {body : List Byte} (h : i.request = some (k, body)) :
    i.isEncode = true ∧ i.isCrc = false ∧ i.isDec = false ∧ i.isSetPolicy = false ∧ i.isIllegal = false ∧
    i ≠ .nop ∧ ∀ rx, i ≠ .dec rx := by
  cases i
  case nop | crcInit | crcUpdate | crcCompute | setPolicy | dec | illegal => cases h
  all_goals exact ⟨rfl, rfl, rfl, rfl, rfl, nofun, nofun⟩

/-- A CRC command is in no other class. -/
theorem classes_of_isCrc {i : Instr} (h : i.isCrc = true) :
    i.request = none ∧ i.isEncode = false ∧ i.isDec = false ∧ i.isSetPolicy = false ∧ i.isIllegal = false ∧
    i ≠ .nop ∧ ∀ rx, i ≠ .dec rx := by
  cases i
  case crcInit | crcUpdate | crcCompute => exact ⟨rfl, rfl, rfl, rfl, rfl, nofun, nofun⟩
  all_goals cases h

@[simp] theorem classes_dec (rx : List Byte) :
    (Instr.dec rx).request = none ∧ (Instr.dec rx).isEncode = false ∧ (Instr.dec rx).isCrc = false ∧
    (Instr.dec rx).isDec = true ∧ (Instr.dec rx).isSetPolicy = false ∧ (Instr.dec rx).isIllegal = false :=
  ⟨rfl, rfl, rfl, rfl, rfl, rfl⟩

@[simp] theorem classes_nop :
    Instr.nop.request = none ∧ Instr.nop.isEncode = false ∧ Instr.nop.isCrc = false ∧
    Instr.nop.isDec = false ∧ Instr.nop.isSetPolicy = false ∧ Instr.nop.isIllegal = false :=
  ⟨rfl, rfl, rfl, rfl, rfl, rfl⟩

@[simp] theorem classes_setPolicy (p : Policy) :
    (Instr.setPolicy p).request = none ∧ (Instr.setPolicy p).isEncode = false ∧ (Instr.setPolicy p).isCrc = false ∧
    (Instr.setPolicy p).isDec = false ∧ (Instr.setPolicy p).isSetPolicy = true ∧
    (Instr.setPolicy p).isIllegal = false :=
  ⟨rfl, rfl, rfl, rfl, rfl, rfl⟩

@[simp] theorem classes_illegal (e : IllegalForm) :
    (Instr.illegal e).request = none ∧ (Instr.illegal e).isEncode = false ∧ (Instr.illegal e).isCrc = false ∧
    (Instr.illegal e).isDec = false ∧ (Instr.illegal e).isSetPolicy = false ∧ (Instr.illegal e).isIllegal = true :=
  ⟨rfl, rfl, rfl, rfl, rfl, rfl⟩

/-- To show a property of what every command leaves, show it of each class's update. -/
theorem exec_elim {P : Instr → State → Prop} (i : Instr) (s : State)
    (encode : ∀ i k body, i.request = some (k, body) → P i (encodeRequest k body s))
    (dec : ∀ rx, P (.dec rx) (afterDec rx s))
    (crc : ∀ i v, i.isCrc = true → P i (setAcc v s))
    (nop : P .nop s)
    (setPolicy : ∀ p, P (.setPolicy p) (finish .ok (setPolicyBit p s)))
    (illegal : ∀ e, P (.illegal e) (finish .illegalCommand s)) :
    ∃ t, exec i s = .next t ∧ P i t := by
  obtain ⟨k, body, hreq, he⟩ | ⟨rx, rfl⟩ | ⟨hcrc, v, he⟩ | ⟨rfl, he⟩ | ⟨p, rfl, he⟩ | ⟨e, rfl, he⟩ := exec_cases i s
  · exact ⟨_, he, encode i k body hreq⟩
  · exact ⟨_, exec_dec_eq_afterDec rx s, dec rx⟩
  · exact ⟨_, he, crc i v hcrc⟩
  · exact ⟨_, he, nop⟩
  · exact ⟨_, he, setPolicy p⟩
  · exact ⟨_, he, illegal e⟩

theorem exists_request_of_isEncode {i : Instr} (h : i.isEncode = true) : ∃ k body, i.request = some (k, body) := by
  obtain ⟨⟨k, body⟩, hreq⟩ := Option.isSome_iff_exists.mp h
  exact ⟨k, body, hreq⟩

theorem exists_eq_dec_of_isDec : ∀ {i : Instr}, i.isDec = true → ∃ rx, i = .dec rx
  | .dec rx, _ => ⟨rx, rfl⟩

end Sys2Proof.Machine
end

section
/-! What DEC's outcome and value are bound by (spec/42_decode.md R120 to R131), and what an encode command leaves in TXB
(spec/41_encode.md R100). -/

namespace Sys2Proof.Machine

/-- Only the read kinds bring a value (R29). -/
theorem responseValue_of_not_isRead {k : Kind} (h : k.isRead = false) (rx : List Byte) :
    responseValue rx k = 0x00000000 := by
  cases k with
  | rdCoil | rdU16 | rdF32 => cases h
  | wrCoil | wrU16 | wrF32 => rfl

/-- RESULT_VALID after DEC: a read kind decoded with STATUS = OK (R30). -/
theorem resultValid_afterDec_iff {rx : List Byte} {s : State} :
    (afterDec rx s).resultValid = true ↔ (afterDec rx s).status = .ok ∧ s.pendKind.isRead = true := by
  simp

/-- DEC leaves no value without RESULT_VALID: a write kind brings none, and a failure clears it (R29, R126). -/
theorem result_afterDec_of_no_value {rx : List Byte} {s : State} (h : (afterDec rx s).resultValid = false) :
    (afterDec rx s).result = 0x00000000 := by
  rw [afterDec_result]
  split
  next hok => exact responseValue_of_not_isRead (by simpa [hok] using h) rx
  next => rfl

/-- A coil value is one bit (R127). -/
theorem responseValue_rdCoil_lt (rx : List Byte) : (responseValue rx .rdCoil).toNat < 2 := by
  simp only [responseValue]
  split <;> decide

/-- A register value is 16 bits (R128). -/
theorem responseValue_rdU16_lt (rx : List Byte) : (responseValue rx .rdU16).toNat < 65536 := by
  simp only [responseValue, BitVec.toNat_setWidth]
  have := (be16 (rxByte rx 3) (rxByte rx 4)).isLt
  omega

/-- With a warning recorded only the function code and the kind are left to decide (R124, R163). -/
theorem decOutcome_of_crcWarned {rx : List Byte} {s : State} (h : crcWarned rx s = true) :
    decOutcome rx s = if rxByte rx 1 ≠ s.txb[1] then .functionMismatch else kindOutcome rx s := by
  simp only [crcWarned, Bool.and_eq_true, beq_iff_eq] at h
  obtain ⟨⟨⟨⟨hpend, hlen⟩, haddr⟩, hpol⟩, -⟩ := h
  simp [decOutcome, hpend, hlen, haddr, hpol]

/-- DEC never reports a code of the host (R160). -/
theorem decOutcome_not_hosts (rx : List Byte) (s : State) :
    decOutcome rx s ≠ .shortWrite ∧ decOutcome rx s ≠ .portOpenFailure := by
  have hkind : kindOutcome rx s ≠ .shortWrite ∧ kindOutcome rx s ≠ .portOpenFailure := by
    obtain h | h | h := kindOutcome_cases rx s <;> rw [h] <;> decide
  unfold decOutcome
  split_ifs
  case neg => exact hkind
  all_goals decide

/-- With the right CRC the policy is not looked at (R124). -/
theorem decOutcome_of_good_crc {rx : List Byte} (h : crcMismatch rx = false) (s : State) (p : Policy) :
    decOutcome rx { s with policy := p } = decOutcome rx s := by
  simp [decOutcome, h, kindOutcome]

theorem crcWarned_of_good_crc {rx : List Byte} (h : crcMismatch rx = false) (s : State) : crcWarned rx s = false := by
  simp [crcWarned, h]

/-- Before its CRC field TXB reads as the request's body. -/
theorem encodeRequest_txb_getElem {body : List Byte} {j : Nat} (hj : j < body.length) (hj13 : j < 13) (k : Kind)
    (s : State) : (encodeRequest k body s).txb[j] = rxByte body j := by
  rw [← rxByte_frame body hj, encodeRequest_txb, bufferOf_getElem _ _ hj13]
  rfl

section
variable {i : Instr} {k : Kind} {body : List Byte} (h : i.request = some (k, body))
include h

theorem frame_length_of_request : (frame body).length = k.requestLength := by rw [frame_length, request_length h]

theorem encodeRequest_txb_toList (s : State) :
    (encodeRequest k body s).txb.toList = frame body ++ List.replicate (13 - k.requestLength) 0x00 := by
  rw [encodeRequest_txb, bufferOf_toList, frame_length_of_request h]
  rw [frame_length_of_request h]
  exact (requestLength_le k).2

/-- Byte 1 of a request is its kind's function code (R27, R79). -/
theorem functionCode_of_request : rxByte body 1 = k.functionCode := by
  cases i <;> cases h <;> rfl

/-- Bytes 4 and 5 of a request are its quantity, 1 or 2 by kind; a coil write has none (R27). -/
theorem quantity_of_request :
    (k = .rdCoil ∨ k = .rdU16 ∨ k = .wrU16 → be16 (rxByte body 4) (rxByte body 5) = 1) ∧
    (k = .rdF32 ∨ k = .wrF32 → be16 (rxByte body 4) (rxByte body 5) = 2) := by
  have hone : be16 0x00 0x01 = 1 := by decide
  have htwo : be16 0x00 0x02 = 2 := by decide
  cases i <;> cases h
  case encRdCoil | encRdU16 | encWrU16 => exact ⟨fun _ => hone, by simp⟩
  case encRdF32 | encWrF32 => exact ⟨by simp, fun _ => htwo⟩
  case encWrCoil => exact ⟨by simp, by simp⟩

end

end Sys2Proof.Machine
end

section
/-! The invariant, kept by each command's update and so by every command (spec/10_state.md §8). -/

namespace Sys2Proof.Machine

theorem State.Inv.withStream {s : State} (h : s.Inv) (bs : List Byte) : State.Inv { s with stream := bs } where
  __ := h

theorem State.Inv.setAcc {s : State} (h : s.Inv) (v : Half) : (setAcc v s).Inv where
  __ := h

theorem State.Inv.setPolicyBit {s : State} (h : s.Inv) (p : Policy) : (setPolicyBit p s).Inv where
  __ := h

/-- OK and IllegalCommand, the codes of SET_POLICY and of an illegal command, may stand beside anything. -/
theorem State.Inv.finish {s : State} (h : s.Inv) {c : Status} (hc : c = .ok ∨ c = .illegalCommand) :
    (finish c s).Inv where
  noFrame := h.noFrame
  frameBuilt := h.frameBuilt
  pendingFresh hp := by
    obtain ⟨hv, hw, -⟩ := h.pendingFresh hp
    exact ⟨hv, hw, .inr hc⟩
  statusOwn := by
    obtain rfl | rfl := hc <;> exact ⟨nofun, nofun⟩
  noValue := h.noValue
  valueOfRead hv := ⟨(h.valueOfRead hv).1, hc⟩
  valueRange := h.valueRange
  warnStatus _ := by
    obtain rfl | rfl := hc <;> simp

/-- A request just built meets the invariant, whatever stood before. -/
theorem inv_encodeRequest {i : Instr} {k : Kind} {body : List Byte} (hreq : i.request = some (k, body)) (s : State) :
    (encodeRequest k body s).Inv := by
  have hlen := encodeRequest_txlen_toNat hreq s
  exact {
    noFrame := fun h0 => by
      have hk := requestLength_le k
      simp only [h0, BitVec.ofNat_eq_ofNat, BitVec.toNat_zero] at hlen
      omega
    frameBuilt := fun _ => ⟨i, body, hreq, hlen, by rw [hlen]; exact encodeRequest_txb_toList hreq s⟩
    pendingFresh := fun _ => ⟨rfl, rfl, .inl rfl⟩
    statusOwn := ⟨nofun, nofun⟩
    noValue := fun _ => rfl
    valueOfRead := nofun
    valueRange := by simp
    warnStatus := nofun }

theorem State.Inv.afterDec {s : State} (h : s.Inv) (rx : List Byte) : (afterDec rx s).Inv where
  noFrame h0 := ⟨(h.noFrame h0).1, rfl⟩
  frameBuilt := h.frameBuilt
  pendingFresh := nofun
  statusOwn := decOutcome_not_hosts rx s
  noValue := result_afterDec_of_no_value
  valueOfRead hv := by
    rw [resultValid_afterDec_iff] at hv
    exact ⟨hv.2, .inl hv.1⟩
  valueRange := by
    simp only [afterDec_pendKind, afterDec_result]
    constructor <;> intro hk <;> rw [hk] <;> split
    · exact responseValue_rdCoil_lt rx
    · decide
    · exact responseValue_rdU16_lt rx
    · decide
  warnStatus hw := by
    rw [afterDec_status, decOutcome_of_crcWarned hw]
    split
    · simp
    · obtain hk | hk | hk := kindOutcome_cases rx s <;> simp [hk]

theorem exec_keeps_inv {i : Instr} {s t : State} (h : s.Inv) (he : exec i s = .next t) : t.Inv := by
  obtain ⟨u, hu, hinv⟩ : ∃ u, exec i s = .next u ∧ u.Inv :=
    exec_elim (P := fun _ u => u.Inv) i s (encode := fun _ _ _ hreq => inv_encodeRequest hreq s) (dec := h.afterDec)
      (crc := fun _ v _ => h.setAcc v) (nop := h) (setPolicy := fun p => (h.setPolicyBit p).finish (.inl rfl))
      (illegal := fun _ => h.finish (.inr rfl))
  rw [he] at hu
  cases hu
  exact hinv

end Sys2Proof.Machine
end

section
open Sys2Proof Sys2Proof.Machine

/-- Settles O39: a step is a command run after its bytes left the stream, and every command keeps the invariant. -/
theorem everyStepKeepsTheInvariant : Obligations.EveryStepKeepsTheInvariant := by
  intro s t hinv hstep
  obtain ⟨i, rest, -, he⟩ := step_cases hstep
  exact exec_keeps_inv (hinv.withStream rest) he

/-- Settles O29: TXB is the frame with zeros after it, and the frame is the body with its CRC, low byte first. -/
theorem framesEndInTheirCrc : Obligations.FramesEndInTheirCrc := by
  intro i s
  apply exec_elim i s
  case encode =>
    intro i k body hreq
    refine ⟨fun _ => ?_, by simp [classes_of_request hreq]⟩
    rw [encodeRequest_txlen_toNat hreq, encodeRequest_txb_toList hreq, ← request_length hreq]
    simp [frame, crcBytes]
  case crc => exact fun i v hcrc => by simp [classes_of_isCrc hcrc]
  case dec | nop | setPolicy | illegal => simp

/-- Settles O31: each class of commands has its one update, and the update's frame is that of the class. -/
theorem elementsChangeOnlyByTheirWriters : Obligations.ElementsChangeOnlyByTheirWriters := by
  intro i s
  apply exec_elim i s
  case encode => exact fun i k body hreq => by simp [classes_of_request hreq]
  case crc => exact fun i v hcrc => by simp [hcrc]
  case dec | nop | setPolicy | illegal => simp

/-- Settles O32: the request an encode command builds and the outcome of DEC are given by tables that do not look at ACC. -/
theorem accIsTheCrcCommandsAlone : Obligations.AccIsTheCrcCommandsAlone := by
  refine ⟨rfl, fun _ => rfl, fun _ _ => rfl, fun _ _ => rfl, ?_⟩
  rintro i s v (henc | hdec)
  · obtain ⟨k, body, hreq⟩ := exists_request_of_isEncode henc
    exact ⟨_, exec_encode hreq s, rfl, exec_encode hreq _⟩
  · obtain ⟨rx, rfl⟩ := exists_eq_dec_of_isDec hdec
    exact ⟨_, exec_dec rx s, rfl, exec_dec rx _⟩

/-- Settles O33: building a request sets PEND_VALID, DEC drops it whatever its outcome, and no other update touches it. -/
theorem pendValidFromEncodeToDec : Obligations.PendValidFromEncodeToDec := by
  refine ⟨rfl, fun i s => ?_⟩
  apply exec_elim i s
  case encode => exact fun i k body hreq => by simp [classes_of_request hreq]
  case crc => exact fun i v hcrc => by simp [classes_of_isCrc hcrc]
  case dec | nop | setPolicy | illegal => simp

/-- Settles O34: the kind is latched with the request, whose bytes 1, 4 and 5 stand in TXB unchanged. -/
theorem pendKindNamesTheRequest : Obligations.PendKindNamesTheRequest := by
  refine ⟨by decide, by decide, by decide, by decide, by decide, by decide, rfl, fun i s => ?_⟩
  apply exec_elim i s
  case encode =>
    intro i k body hreq
    refine ⟨fun k' body' hreq' => ?_, by simp [classes_of_request hreq]⟩
    obtain ⟨rfl, rfl⟩ : k = k' ∧ body = body' := by simpa [hreq] using hreq'
    have hlen := request_length hreq
    have hkind := requestLength_le k
    rw [encodeRequest_txb_getElem (by omega), encodeRequest_txb_getElem (by omega), encodeRequest_txb_getElem (by omega)]
    exact ⟨rfl, functionCode_of_request hreq, quantity_of_request hreq⟩
  case crc => exact fun i v hcrc => by simp [classes_of_isCrc hcrc]
  case dec | nop | setPolicy | illegal => simp

/-- Settles O35: each class's update says what it writes to STATUS, and `afterDec` that DEC writes its outcome. -/
theorem statusHoldsTheLastOutcome : Obligations.StatusHoldsTheLastOutcome := by
  refine ⟨rfl, rfl, fun i s => ?_⟩
  apply exec_elim i s
  case encode => exact fun i k body hreq => by simp [classes_of_request hreq]
  case crc => exact fun i v hcrc => by simp [classes_of_isCrc hcrc]
  case dec | nop | setPolicy | illegal => simp

/-- Settles O37: RESULT_VALID after DEC is the outcome OK on a read kind, and a write brings the value 0. -/
theorem resultValidAfterReadDecode : Obligations.ResultValidAfterReadDecode := by
  refine ⟨rfl, rfl, fun i s => ?_⟩
  apply exec_elim i s
  case encode => exact fun i k body hreq => by simp [classes_of_request hreq]
  case dec =>
    intro rx
    exact ⟨nofun, fun _ => ⟨resultValid_afterDec_iff, result_afterDec_of_no_value⟩, nofun⟩
  case crc => exact fun i v hcrc => by simp [classes_of_isCrc hcrc]
  case nop | setPolicy | illegal => simp

/-- Settles O38: building a request clears CRC_WARN, `afterDec` writes the mismatch recorded under LENIENT. -/
theorem crcWarnMarksALenientMismatch : Obligations.CrcWarnMarksALenientMismatch := by
  refine ⟨rfl, fun i s => ?_⟩
  apply exec_elim i s
  case encode => exact fun i k body hreq => by simp [classes_of_request hreq]
  case crc => exact fun i v hcrc => by simp [classes_of_isCrc hcrc]
  case dec | nop | setPolicy | illegal => simp

/-- Settles O45: with the right CRC neither the outcome nor the warning depends on POLICY, and DEC's effect is given by them. -/
theorem policiesAgreeOnAGoodCrc : Obligations.PoliciesAgreeOnAGoodCrc := by
  intro rx s p hgood
  refine ⟨afterDec rx s, exec_dec_eq_afterDec rx s, ?_⟩
  rw [exec_dec_eq_afterDec]
  simp [afterDec, decOutcome_of_good_crc hgood, crcWarned_of_good_crc hgood]

end

section
/-! Decoding an encoded command gives it back, with what follows it (spec/30_encoding.md R60 to R64). -/

namespace Sys2Proof

theorem decodeRead_halfBytes (make : Byte → Half → Instr) (dev : Byte) (a : Half) (rest : List Byte) :
    decodeRead make (dev :: (halfBytes a ++ rest)) = .ok (make dev a, rest) := by
  simp [halfBytes, decodeRead]

theorem decodeWriteCoil_halfBytes (dev : Byte) (a : Half) (v : Byte) (rest : List Byte) :
    decodeWriteCoil (dev :: (halfBytes a ++ v :: rest)) = .ok (coilCommand dev a v, rest) := by
  simp [halfBytes, decodeWriteCoil]

theorem decodeWriteU16_halfBytes (dev : Byte) (a v : Half) (rest : List Byte) :
    decodeWriteU16 (dev :: (halfBytes a ++ (halfBytes v ++ rest))) = .ok (.encWrU16 dev a v, rest) := by
  simp [halfBytes, decodeWriteU16]

theorem decodeWriteF32_wordBytes (dev : Byte) (a : Half) (f : Word) (rest : List Byte) :
    decodeWriteF32 (dev :: (halfBytes a ++ (wordBytes f ++ rest))) = .ok (.encWrF32 dev a f, rest) := by
  simp [halfBytes, wordBytes, decodeWriteF32, be32_wordBytes]

/-- An operand byte that R64 calls illegal is read as the illegal form. -/
theorem policyCommand_of_illegal {p : Byte} (h : (IllegalForm.policy p).wellFormed = true) :
    policyCommand p = .illegal (.policy p) := by
  simp only [IllegalForm.wellFormed, Bool.and_eq_true, bne_iff_ne] at h
  rw [policyCommand, if_neg h.1, if_neg h.2]

theorem coilCommand_of_illegal {dev : Byte} {a : Half} {v : Byte} (h : (IllegalForm.coil dev a v).wellFormed = true) :
    coilCommand dev a v = .illegal (.coil dev a v) := by
  simp only [IllegalForm.wellFormed, Bool.and_eq_true, bne_iff_ne] at h
  rw [coilCommand, if_neg h.1, if_neg h.2]

/-- The illegal forms are read back too: each as the operands of its opcode, or as the one byte no row has. -/
theorem decode_encode_illegal {e : IllegalForm} (hwf : e.wellFormed = true) (rest : List Byte) :
    decode (encode (.illegal e) ++ rest) = .ok (.illegal e, rest) := by
  cases e with
  | opcode op =>
    have hop : opcodeOf op = none := Option.isNone_iff_eq_none.mp hwf
    simp [encode, decode, hop]
  | policy p => simp [encode, decodeOperands, decodePolicy, policyCommand_of_illegal hwf]
  | coil dev a v => simp [encode, decodeOperands, decodeWriteCoil_halfBytes, coilCommand_of_illegal hwf]

/-- The decoder takes exactly the bytes of a well-formed command and answers that command. -/
theorem decode_encode {i : Instr} (hwf : i.wellFormed = true) (rest : List Byte) :
    decode (encode i ++ rest) = .ok (i, rest) := by
  cases i with
  | nop | crcInit => simp [encode, decodeOperands]
  | crcUpdate b => simp [encode, decodeOperands, decodeUpdate]
  | setPolicy p => simp [encode, decodeOperands, decodePolicy]
  | crcCompute bs | dec bs =>
    have hlen : bs.length ≤ 255 := of_decide_eq_true hwf
    simp [encode, decodeOperands, decodeCounted_countedBytes, hlen]
  | encRdCoil dev a | encRdU16 dev a | encRdF32 dev a => simp [encode, decodeOperands, decodeRead_halfBytes]
  | encWrCoil dev a v => simp [encode, decodeOperands, decodeWriteCoil_halfBytes]
  | encWrU16 dev a v => simp [encode, decodeOperands, decodeWriteU16_halfBytes]
  | encWrF32 dev a f => simp [encode, decodeOperands, decodeWriteF32_wordBytes]
  | illegal e => exact decode_encode_illegal hwf rest

end Sys2Proof
end

section
/-! A run over a program's bytes is the sequence of its commands' effects (spec/20_memory.md R49). -/

namespace Sys2Proof.Machine

/-- A run goes on from the first step's next state. -/
theorem run_succ {s t : State} (h : step s = .next t) (n : Nat) :
    Host.Core.run Sys2Proof.core (n + 1) s = Host.Core.run Sys2Proof.core n t := by
  have hcore : Sys2Proof.core.step s = .next t := h
  simp only [Host.Core.run, hcore]

@[simp] theorem programBytes_nil : programBytes [] = [] := rfl

@[simp] theorem programBytes_cons (i : Instr) (is : List Instr) :
    programBytes (i :: is) = encode i ++ programBytes is := List.flatMap_cons

/-- A command's effect is the same over another stream, which it leaves as it found it. -/
theorem exec_next_withStream {i : Instr} {s t : State} (h : exec i s = .next t) (bs : List Byte) :
    exec i { s with stream := bs } = .next { t with stream := bs } := by
  rw [exec_withStream, h]
  rfl

/-- With a well-formed command's bytes at the head of the stream, a step is that command's effect. -/
theorem step_of_encode {s : State} {i : Instr} {rest : List Byte} (hwf : i.wellFormed = true)
    (h : s.stream = encode i ++ rest) : step s = exec i { s with stream := rest } :=
  step_of_decode_ok (by rw [h, decode_encode hwf])

theorem run_programBytes {is : List Instr} (hwf : ∀ i ∈ is, i.wellFormed = true) {rest : List Byte} {s : State}
    (h : s.stream = programBytes is ++ rest) :
    Host.Core.run Sys2Proof.core is.length s = runCommands is { s with stream := rest } := by
  induction is generalizing s with
  | nil =>
    have hrest : s.stream = rest := h
    rw [← hrest]
    rfl
  | cons i is ih =>
    obtain ⟨hi, his⟩ := List.forall_mem_cons.mp hwf
    rw [programBytes_cons, List.append_assoc] at h
    obtain ⟨t, ht⟩ := exec_completes i { s with stream := programBytes is ++ rest }
    have hstep : step s = .next t := (step_of_encode hi h).trans ht
    rw [List.length_cons, run_succ hstep, ih his (exec_stream ht), runCommands_cons (exec_next_withStream ht rest)]

end Sys2Proof.Machine
end

section
open Sys2Proof Sys2Proof.Machine

/-- Settles O40: by induction on the program, each step taking one command's bytes from the head of the stream. -/
theorem commandsTakeEffectInOrder : Obligations.CommandsTakeEffectInOrder :=
  fun _ _ _ hwf hstream => run_programBytes hwf hstream

end

section
/-! A byte string has one reading: what the decoder answers is determined by it, a command cut short is no command, and the
rows of the command map read their operands (spec/30_encoding.md R60 to R64). -/

namespace Sys2Proof

/-- The decoder answers a command only for that command's own bytes. -/
theorem wellFormed_and_eq_encode_of_decode {bs rest : List Byte} {i : Instr} (h : decode bs = .ok (i, rest)) :
    i.wellFormed = true ∧ bs = encode i ++ rest := by
  obtain ⟨j, tail, hwf, hbytes, hd⟩ | ⟨-, hd⟩ | ⟨-, hd⟩ := decode_cases bs <;> rw [hd] at h
  · cases h
    exact ⟨hwf, hbytes⟩
  all_goals cases h

/-- No well-formed command's bytes begin with another command's: with something missing, nothing decodes. -/
theorem decode_ne_ok_of_missing_bytes {i : Instr} (hwf : i.wellFormed = true) {bs missing : List Byte}
    (hbytes : encode i = bs ++ missing) (hmissing : missing ≠ []) (j : Instr) (rest : List Byte) :
    decode bs ≠ .ok (j, rest) := by
  intro hd
  obtain ⟨hwfj, hbs⟩ := wellFormed_and_eq_encode_of_decode hd
  have hwhole : decode (encode i) = .ok (i, []) := by simpa using decode_encode hwf []
  rw [hbytes, hbs, List.append_assoc, decode_encode hwfj] at hwhole
  simp only [Except.ok.injEq, Prod.mk.injEq, List.append_eq_nil_iff] at hwhole
  obtain ⟨-, -, hnil⟩ := hwhole
  exact hmissing hnil

/-- A sequence of the length its length byte `n` says stands behind its own length byte (R61). -/
theorem countedBytes_of_length {n : Byte} {bs : List Byte} (h : bs.length = n.toNat) : countedBytes bs = n :: bs := by
  simp [countedBytes, h]

theorem decodeCounted_of_length (make : List Byte → Instr) {n : Byte} {bs : List Byte} (h : bs.length = n.toNat)
    (rest : List Byte) : decodeCounted make (n :: (bs ++ rest)) = .ok (make bs, rest) := by
  have hn := n.isLt
  rw [← List.cons_append, ← countedBytes_of_length h, decodeCounted_countedBytes make bs rest (by omega)]

/-- An opcode is unassigned when it is the byte of no row (R63). -/
theorem opcodeOf_eq_none_iff (b : Byte) : opcodeOf b = none ↔ ∀ o ∈ opcodes, o.byte ≠ b := by
  simp [opcodeOf]

/-- The gaps of the command map (R64). -/
theorem opcodeOf_eq_none_iff_ranges (op : Byte) :
    opcodeOf op = none ↔
      (0x05 ≤ op.toNat ∧ op.toNat ≤ 0x0F) ∨ (0x16 ≤ op.toNat ∧ op.toNat ≤ 0x1F) ∨ 0x21 ≤ op.toNat := by
  rw [opcodeOf_eq_none_iff]
  simp only [opcodes, List.forall_mem_cons, List.not_mem_nil, false_implies, implies_true, Opcode.byte, ne_eq,
    BitVec.toNat_eq, BitVec.ofNat_eq_ofNat, BitVec.toNat_ofNat, and_true]
  omega

theorem decode_of_opcodeOf_eq_none {op : Byte} (h : opcodeOf op = none) (rest : List Byte) :
    decode (op :: rest) = .ok (.illegal (.opcode op), rest) := by
  simp only [decode, h]

theorem decode_illegal_policy {p : Byte} (h0 : p ≠ 0x00) (h1 : p ≠ 0x01) (rest : List Byte) :
    decode (0x04 :: p :: rest) = .ok (.illegal (.policy p), rest) :=
  decode_encode_illegal (e := .policy p) (by simpa [IllegalForm.wellFormed] using And.intro h0 h1) rest

theorem decode_illegal_coil {v : Byte} (h0 : v ≠ 0x00) (h1 : v ≠ 0x01) (dev aH aL : Byte) (rest : List Byte) :
    decode (0x13 :: dev :: aH :: aL :: v :: rest) = .ok (.illegal (.coil dev (be16 aH aL) v), rest) := by
  have h := decode_encode_illegal (e := .coil dev (be16 aH aL) v) (by simpa [IllegalForm.wellFormed] using And.intro h0 h1) rest
  simpa [encode, Opcode.byte] using h

end Sys2Proof
end

section
/-! What a step does with the beginning of a command, and with an illegal encoding (spec/30_encoding.md R62, R64;
spec/43_config.md R152). -/

namespace Sys2Proof.Machine

/-- Where no command decodes the block waits: for a command on an empty stream, otherwise for operands (R62). -/
theorem step_of_no_command {s : State} (h : ∀ i rest, decode s.stream ≠ .ok (i, rest)) :
    step s = .refused (if s.stream = [] then .awaitingCommand else .awaitingOperands) := by
  obtain ⟨i, rest, -, -, hd⟩ | ⟨hnil, hd⟩ | ⟨hne, hd⟩ := decode_cases s.stream
  · exact absurd hd (h i rest)
  · rw [step_of_decode_noCommand hd, if_pos hnil]
  · rw [step_of_decode_incompleteCommand hd, if_neg hne]

/-- An illegal encoding at the head of the stream: its bytes leave the stream and STATUS is written (R152). -/
theorem step_of_decode_illegal {s : State} {e : IllegalForm} {rest : List Byte}
    (h : decode s.stream = .ok (.illegal e, rest)) :
    step s = .next { s with stream := rest, status := .illegalCommand } :=
  step_of_decode_ok h

end Sys2Proof.Machine
end

section
open Sys2Proof Sys2Proof.Machine

/-- Settles O6: by cases on the command, each row's operands read back as written. -/
theorem decodingAnEncodedCommandGivesItBack : Obligations.DecodingAnEncodedCommandGivesItBack :=
  fun _ rest hwf => decode_encode hwf rest

/-- Settles O7: by cases on what the decoder can answer. -/
theorem everyDecodedCommandIsItsEncoding : Obligations.EveryDecodedCommandIsItsEncoding :=
  fun _ _ _ h => wellFormed_and_eq_encode_of_decode h

/-- Settles O9: a cut-short command that decoded would give the whole command a second reading; with the rest issued the stream
begins with the whole command. -/
theorem truncatedCommandIsNotStarted : Obligations.TruncatedCommandIsNotStarted := by
  intro i k s hwf hk hstream
  have hsplit : encode i = s.stream ++ (encode i).drop k := by rw [hstream, List.take_append_drop]
  have hmissing : (encode i).drop k ≠ [] := by simpa using hk
  have hempty : s.stream = [] ↔ k = 0 := by
    rw [hstream, ← List.length_eq_zero_iff, List.length_take, Nat.min_eq_left hk.le]
  constructor
  · simpa only [hempty] using step_of_no_command (decode_ne_ok_of_missing_bytes hwf hsplit hmissing)
  · intro more
    have hwhole : (hostIssue ((encode i).drop k ++ more) s).stream = encode i ++ more := by
      rw [hostIssue_stream, ← List.append_assoc, ← hsplit]
    exact step_of_encode hwf hwhole

/-- Settles O10: each of R64's encodings decodes to its illegal form with the bytes after it left, and an illegal command
writes STATUS. -/
theorem illegalEncodingsSetStatusOnly : Obligations.IllegalEncodingsSetStatusOnly := by
  refine ⟨opcodeOf_eq_none_iff_ranges, ?_, ?_, ?_, fun _ _ => rfl, rfl⟩
  · exact fun op s rest hop =>
      step_of_decode_illegal (decode_of_opcodeOf_eq_none ((opcodeOf_eq_none_iff_ranges op).mpr hop) rest)
  · exact fun p s rest h0 h1 => step_of_decode_illegal (decode_illegal_policy h0 h1 rest)
  · exact fun dev aH aL v s rest h0 h1 => step_of_decode_illegal (decode_illegal_coil h0 h1 dev aH aL rest)

/-- Settles O4: the decoder evaluated on each word. -/
theorem tableWordsDecode : Obligations.TableWordsDecode :=
  ⟨rfl, rfl, rfl, rfl, rfl, rfl, rfl, rfl, rfl, rfl, rfl, rfl, rfl⟩

/-- Settles O5: a fixed row is read by evaluation, a counted one by its length byte, and an encode command latches the kind of
its request. -/
theorem commandMapDecodes : Obligations.CommandMapDecodes := by
  refine ⟨fun _ => rfl, fun _ => rfl, fun _ _ => rfl, ?compute, fun _ => rfl, fun _ => rfl, fun _ _ _ _ => rfl,
    fun _ _ _ _ => rfl, fun _ _ _ _ => rfl, fun _ _ _ _ => rfl, fun _ _ _ _ => rfl, fun _ _ _ _ _ _ => rfl,
    fun _ _ _ _ _ _ _ _ => rfl, ?dec, ?_, ?_, ?_, ?_, ?_, ?_⟩
  case compute => exact fun n buf rest h => decodeCounted_of_length .crcCompute h rest
  case dec => exact fun n rx rest h => decodeCounted_of_length .dec h rest
  all_goals
    intros
    exact ⟨_, exec_encode rfl _, rfl⟩

end

section
/-! The four bytes of a 32-bit field as a number (spec/30_encoding.md R76). -/

namespace Sys2Proof

/-- The bytes of a pattern in wire order are its digits to base 256. -/
theorem word_toNat (f : Word) :
    f.toNat = 16777216 * (f.extractLsb' 24 8).toNat + 65536 * (f.extractLsb' 16 8).toNat +
      256 * (f.extractLsb' 8 8).toNat + (f.extractLsb' 0 8).toNat := by
  have hf := f.isLt
  simp only [BitVec.extractLsb'_toNat, Nat.shiftRight_eq_div_pow]
  omega

theorem be32_toNat (a b c d : Byte) :
    (be32 a b c d).toNat = 16777216 * a.toNat + 65536 * b.toNat + 256 * c.toNat + d.toNat := by
  have hbytes := wordBytes_be32 a b c d
  simp only [wordBytes, List.cons.injEq, and_true] at hbytes
  obtain ⟨ha, hb, hc, hd⟩ := hbytes
  rw [word_toNat, ha, hb, hc, hd]

end Sys2Proof
end

section
/-! A response in the format of the pending request's kind, with its CRC, decodes to the value it carries, from every state and
under both policies (spec/42_decode.md R120 to R131). -/

namespace Sys2Proof.Machine

/-- `answer` is the body of a response in the format a request of kind `k` with the body `request` asks for: what DEC checks,
the CRC apart (R122, R123, R125, R127 to R131). -/
structure Answers (k : Kind) (request answer : List Byte) : Prop where
  length : answer.length + 2 = k.rlen
  device : rxByte answer 0 = rxByte request 0
  function : rxByte answer 1 = rxByte request 1
  payload : ∀ s, kindOutcome (frame answer) (encodeRequest k request s) = .ok

section
variable {i : Instr} {k : Kind} {request answer : List Byte} (hreq : i.request = some (k, request))
  (hans : Answers k request answer) (s : State)
include hreq hans

/-- The response passes every check and leaves no warning, whatever the policy. -/
theorem decOutcome_of_answers :
    decOutcome (frame answer) (encodeRequest k request s) = .ok ∧
    crcWarned (frame answer) (encodeRequest k request s) = false := by
  have hk := requestLength_le k
  have hlen := request_length hreq
  have hrlen : 6 ≤ k.rlen := by cases k <;> decide
  have halen := hans.length
  obtain ⟨hout, hwarn⟩ := decOutcome_of_checks (rx := frame answer) (s := encodeRequest k request s) rfl
    (by rw [frame_length, hans.length, encodeRequest_pendKind])
    (by rw [rxByte_frame _ (by omega), encodeRequest_txb_getElem (by omega), hans.device])
    (by rw [rxByte_frame _ (by omega), encodeRequest_txb_getElem (by omega), hans.function])
    (.inl (crcMismatch_frame answer))
  exact ⟨hout.trans (hans.payload s), hwarn.trans (crcMismatch_frame answer)⟩

/-- DEC of the response ends in OK with the value of a read kind, and without a warning. -/
theorem exec_dec_of_answers : ∃ u, exec (.dec (frame answer)) (encodeRequest k request s) = .next u ∧
    u.status = .ok ∧ u.resultValid = k.isRead ∧ u.result = responseValue (frame answer) k ∧ u.crcWarn = false := by
  obtain ⟨hout, hwarn⟩ := decOutcome_of_answers hreq hans s
  exact ⟨_, exec_dec_eq_afterDec _ _, by simp [hout, hwarn]⟩

end

/-- A transaction whose frame is written whole and answered in the format of its kind reports the answer's value (R177). -/
theorem transaction_of_answers {a : Accessor} {request answer : List Byte}
    (hreq : a.command.request = some (a.kind, request)) (hans : Answers a.kind request answer) {w : Transport a.kind}
    {n : Fin (a.kind.requestLength + 1)} (hwrite : w.write = .wrote n) (hwhole : a.kind.requestLength ≤ n.val)
    (hread : w.read.bytes = frame answer) {value : Option Word}
    (hvalue : (if a.kind.isRead then some (responseValue (frame answer) a.kind) else none) = value) (h : Handle)
    (s : State) : ∃ t done, transaction h a w s = .next ⟨t, .decoded .ok value false, done⟩ := by
  have hsent : w.write.short a.kind.requestLength = false := by simpa [hwrite] using hwhole
  obtain ⟨u, hdec, hstatus, hvalid, hresult, hwarn⟩ := exec_dec_of_answers hreq hans s
  refine ⟨u, sentEvents h a request ++ receivedEvents h a.kind (frame answer), ?_⟩
  rw [transaction_eq hreq, hsent, hread, hdec]
  simp [mapNext, reportOf, hstatus, hvalid, hresult, hwarn, hvalue]

/-! The six formats, W5 to W9 (spec/30_encoding.md R69 to R73). -/

theorem answers_rdCoil (dev : Byte) (a : Half) (sb : Byte) :
    Answers .rdCoil [dev, 0x01, hi8 a, lo8 a, 0x00, 0x01] [dev, 0x01, 0x01, sb] :=
  ⟨rfl, rfl, rfl, fun _ => rfl⟩

theorem answers_rdU16 (dev : Byte) (a v : Half) :
    Answers .rdU16 [dev, 0x03, hi8 a, lo8 a, 0x00, 0x01] [dev, 0x03, 0x02, hi8 v, lo8 v] :=
  ⟨rfl, rfl, rfl, fun _ => rfl⟩

theorem answers_rdF32 (dev : Byte) (a : Half) (f : Word) :
    Answers .rdF32 [dev, 0x03, hi8 a, lo8 a, 0x00, 0x02] ([dev, 0x03, 0x04] ++ wordBytes f) :=
  ⟨rfl, rfl, rfl, fun _ => rfl⟩

/-- The answer to a coil write is its echo. -/
theorem answers_wrCoil (dev : Byte) (a : Half) (v : Byte) :
    Answers .wrCoil [dev, 0x05, hi8 a, lo8 a, 0x00, v] [dev, 0x05, hi8 a, lo8 a, 0x00, v] :=
  ⟨rfl, rfl, rfl, fun s => by simp [kindOutcome, rxByte, frame]⟩

/-- A register write is answered with its quantity, at any address (R131). -/
theorem answers_wrU16 (dev : Byte) (a a' v : Half) :
    Answers .wrU16 [dev, 0x10, hi8 a, lo8 a, 0x00, 0x01, 0x02, hi8 v, lo8 v] [dev, 0x10, hi8 a', lo8 a', 0x00, 0x01] :=
  ⟨rfl, rfl, rfl, fun s => by simp [kindOutcome, rxByte, frame]⟩

theorem answers_wrF32 (dev : Byte) (a a' : Half) (f : Word) :
    Answers .wrF32 ([dev, 0x10, hi8 a, lo8 a, 0x00, 0x02, 0x04] ++ wordBytes f)
      [dev, 0x10, hi8 a', lo8 a', 0x00, 0x02] :=
  ⟨rfl, rfl, rfl, fun s => by simp [kindOutcome, rxByte, frame]⟩

/-- The value of a float response is its pattern, unchanged (R76, R129). -/
theorem responseValue_rdF32 (dev : Byte) (f : Word) :
    responseValue (frame ([dev, 0x03, 0x04] ++ wordBytes f)) .rdF32 = f := be32_wordBytes f

theorem responseValue_rdU16 (dev : Byte) (v : Half) :
    responseValue (frame [dev, 0x03, 0x02, hi8 v, lo8 v]) .rdU16 = v.setWidth 32 :=
  congrArg (BitVec.setWidth 32) (be16_hi8_lo8 v)

/-- ENC_WR_F32 puts the pattern's bytes in TXB[7..10] (R107). -/
theorem txb_payload_wrF32 {dev : Byte} {a : Half} {f : Word} {request : List Byte}
    (hreq : (Instr.encWrF32 dev a f).request = some (.wrF32, request)) (s : State) :
    ((encodeRequest .wrF32 request s).txb.toList.drop 7).take 4 = wordBytes f := by
  rw [encodeRequest_txb_toList hreq]
  cases hreq
  rfl

end Sys2Proof.Machine
end

section
open Sys2Proof Sys2Proof.Machine

/-- Settles O21: the laws of the 16-bit and the 32-bit field, side by side. -/
theorem fieldsAreBigEndian : Obligations.FieldsAreBigEndian :=
  ⟨be16_hi8_lo8, fun x y => ⟨hi8_be16 x y, lo8_be16 x y, be16_toNat x y⟩, fun _ => rfl, be32_wordBytes,
    fun a b c d => ⟨wordBytes_be32 a b c d, be32_toNat a b c d⟩⟩

/-- Settles O56: TXB[7..10] are the pattern's bytes, and behind a float read's header they answer it. -/
theorem floatPatternsSurviveTheWire : Obligations.FloatPatternsSurviveTheWire := by
  intro dev a f s
  obtain ⟨request, hwrite⟩ : ∃ request, (Instr.encWrF32 dev a f).request = some (.wrF32, request) := ⟨_, rfl⟩
  have hread : (Instr.encRdF32 dev a).request = some (.rdF32, [dev, 0x03, hi8 a, lo8 a, 0x00, 0x02]) := rfl
  obtain ⟨u, hdec, hstatus, hvalid, hresult, hwarn⟩ := exec_dec_of_answers hread (answers_rdF32 dev a f) s
  refine ⟨encodeRequest .wrF32 request s, u, exec_encode hwrite s, ?_, hstatus, hvalid,
    hresult.trans (responseValue_rdF32 dev f), hwarn⟩
  rw [txb_payload_wrF32 hwrite, runCommands_cons (exec_encode hread s), runCommands_cons hdec]
  rfl

/-- Settles O59: in each clause the bytes read answer the request of the accessor's kind. -/
theorem transactionsReturnTheDevicesValue : Obligations.TransactionsReturnTheDevicesValue := by
  intro h dev a s
  refine ⟨?_, ?_, ?_, ?_, ?_, ?_⟩
  · intro w n sb hwrite hwhole hread
    exact transaction_of_answers (a := .readCoil dev a) rfl (answers_rdCoil dev a sb) hwrite hwhole hread rfl h s
  · intro w n v hwrite hwhole hread
    exact transaction_of_answers (a := .readU16 dev a) rfl (answers_rdU16 dev a v) hwrite hwhole hread
      (congrArg some (responseValue_rdU16 dev v)) h s
  · intro w n f hwrite hwhole hread
    exact transaction_of_answers (a := .readF32 dev a) rfl (answers_rdF32 dev a f) hwrite hwhole hread
      (congrArg some (responseValue_rdF32 dev f)) h s
  · intro w n v hwrite hwhole hread
    exact transaction_of_answers (a := .writeCoil dev a v) rfl (answers_wrCoil dev a _) hwrite hwhole hread rfl h s
  · intro w n v a' hwrite hwhole hread
    exact transaction_of_answers (a := .writeU16 dev a v) rfl (answers_wrU16 dev a a' v) hwrite hwhole hread rfl h s
  · intro w n f a' hwrite hwhole hread
    exact transaction_of_answers (a := .writeF32 dev a f) rfl (answers_wrF32 dev a a' f) hwrite hwhole hread rfl h s

end

section
/-! The CRC engine's commands, one equation each, the residue of a sequence with its CRC field, and what a changed byte does
(spec/40_crc.md R90 to R96). -/

namespace Sys2Proof.Machine

theorem exec_crcInit (s : State) : exec .crcInit s = .next { s with acc := 0xFFFF } := rfl

theorem exec_crcUpdate (b : Byte) (s : State) : exec (.crcUpdate b) s = .next { s with acc := crcStep s.acc b } := rfl

theorem exec_crcCompute (buf : List Byte) (s : State) : exec (.crcCompute buf) s = .next { s with acc := crc16 buf } := rfl

theorem crc16_append_singleton (buf : List Byte) (b : Byte) : crc16 (buf ++ [b]) = crcStep (crc16 buf) b :=
  crc16_append buf [b]

/-- The residue of a sequence is zero exactly when its last two bytes are the CRC of the others, low byte first (R96). -/
theorem crc16_append_two_bytes_eq_zero_iff (body : List Byte) (cl ch : Byte) :
    crc16 (body ++ [cl, ch]) = 0x0000 ↔ crc16 body = be16 ch cl := by
  rw [crc16_append]
  exact crcStep_two_bytes (crc16 body) cl ch

/-- A whole frame has the residue zero (R96). -/
theorem crc16_frame (body : List Byte) : crc16 (frame body) = 0x0000 :=
  (crc16_append_two_bytes_eq_zero_iff body _ _).mpr (be16_hi8_lo8 (crc16 body)).symm

/-- The streaming commands compute what CRC_COMPUTE computes (R94). -/
theorem runCommands_streaming (buf : List Byte) (s : State) :
    runCommands (.crcInit :: buf.map .crcUpdate) s = exec (.crcCompute buf) s := by
  rw [runCommands_cons (exec_crcInit s), ← List.append_nil (buf.map _), runCommands_crcUpdates]
  rfl

/-- Between a fixed beginning and a fixed end, the CRC tells every byte from every other (R91). -/
theorem crc16_injective_byte {before after : List Byte} {b b' : Byte}
    (h : crc16 (before ++ b :: after) = crc16 (before ++ b' :: after)) : b = b' := by
  rw [crc16_append, crc16_append] at h
  exact crcStep_injective_byte (foldl_crcStep_injective after h)

end Sys2Proof.Machine
end

section
open Sys2Proof Sys2Proof.Machine

/-- Settles O17: the streaming commands fold the same step from the same seed, and a whole frame has the residue zero. -/
theorem crcComputeEqualsStreaming : Obligations.CrcComputeEqualsStreaming := by
  refine ⟨fun n buf rest h => decodeCounted_of_length .crcCompute h rest, exec_crcCompute, runCommands_streaming,
    exec_crcCompute [], fun body s => ?frame, fun s => ?bytes⟩
  case frame => exact (exec_crcCompute (frame body) s).trans (by rw [crc16_frame])
  case bytes =>
    have hcrc : crc16 [0x01, 0x03, 0x00, 0x00, 0x00, 0x01] = 0x0A84 := by decide +kernel
    rw [exec_crcCompute, hcrc]

/-- Settles O18: two trailing bytes bring the accumulator to zero when they are its own, and only then. -/
theorem residueTestEqualsFieldTest : Obligations.ResidueTestEqualsFieldTest :=
  ⟨crc16_frame, crc16_append_two_bytes_eq_zero_iff⟩

/-- Settles O20: the step that takes the byte is injective in it, and the steps after it are injective in the accumulator. -/
theorem oneChangedByteChangesTheCrc : Obligations.OneChangedByteChangesTheCrc :=
  fun _ _ _ _ hne h => hne (crc16_injective_byte h)

/-- Settles O13: the rule's loop body is `crcBit`, and `crc_step` iterates it eight times. -/
theorem crcStepIsEightShifts : Obligations.CrcStepIsEightShifts := by
  intro acc b f hf
  have hbit : f = crcBit := funext hf
  rw [hbit]
  rfl

/-- Settles O14: the step of the last byte comes after those of all bytes before it. -/
theorem crcRunsFromTheSeed : Obligations.CrcRunsFromTheSeed := ⟨crc16_nil, crc16_append_singleton⟩

/-- Settles O15: the row of the command map, and the seed written to ACC. -/
theorem crcInitWritesTheSeed : Obligations.CrcInitWritesTheSeed := ⟨fun _ => rfl, exec_crcInit⟩

/-- Settles O16: the row of the command map, one step of ACC, and the rule's three values computed. -/
theorem crcUpdateStepsAcc : Obligations.CrcUpdateStepsAcc :=
  ⟨fun _ _ => rfl, exec_crcUpdate, by decide, by decide, by decide⟩

end

section
/-! What an encode command leaves, said once through the table of requests: its frame latched, and TXLEN the length of its
kind's frame (spec/41_encode.md R100). -/

namespace Sys2Proof.Machine

/-- Requests come in three lengths (spec/30_encoding.md R74). -/
theorem requestLength_cases (k : Kind) : k.requestLength = 8 ∨ k.requestLength = 11 ∨ k.requestLength = 13 := by
  cases k <;> decide

theorem exec_encode_latches {i : Instr} {k : Kind} {body : List Byte} (hreq : i.request = some (k, body)) (s : State) :
    ∃ t, exec i s = .next t ∧ t.txlen = BitVec.ofNat 4 k.requestLength ∧ RequestLatched s t k (frame body) := by
  have hlen : body.length + 2 = k.requestLength := request_length hreq
  have hfits : body.length + 2 ≤ 13 := hlen.trans_le (requestLength_le k).2
  exact ⟨_, exec_encode hreq s, congrArg (BitVec.ofNat 4) hlen, encodeRequest_latched k body s hfits⟩

end Sys2Proof.Machine
end

section
open Sys2Proof Sys2Proof.Machine

/-- Settles O28: the table of requests gives each encode command's kind and body, and `encode(kind, body)` latches the body with
its CRC. -/
theorem everyEncodeLatchesItsFrame : Obligations.EveryEncodeLatchesItsFrame := by
  intro i k body s hreq
  obtain ⟨t, he, -, hlatched⟩ := exec_encode_latches hreq s
  exact ⟨by rw [request_length hreq]; exact requestLength_cases k, t, he, hlatched⟩

/-- Settles O22: the row of the command map, the request of the table latched, and the CRC of the rule's frame computed. -/
theorem encRdCoilBuildsItsRequest : Obligations.EncRdCoilBuildsItsRequest :=
  ⟨fun _ _ _ _ => rfl, fun dev a => exec_encode_latches (i := .encRdCoil dev a) rfl, rfl, by decide +kernel⟩

/-- Settles O23: the row of the command map, the request of the table latched, and the CRC of the rule's frame computed. -/
theorem encRdU16BuildsItsRequest : Obligations.EncRdU16BuildsItsRequest :=
  ⟨fun _ _ _ _ => rfl, fun dev a => exec_encode_latches (i := .encRdU16 dev a) rfl, rfl, by decide +kernel⟩

/-- Settles O24: the row of the command map, the request of the table latched, and the CRC of the rule's frame computed. -/
theorem encRdF32BuildsItsRequest : Obligations.EncRdF32BuildsItsRequest :=
  ⟨fun _ _ _ _ => rfl, fun dev a => exec_encode_latches (i := .encRdF32 dev a) rfl, rfl, by decide +kernel⟩

/-- Settles O25: the row of the command map at each operand byte, legal or not, the request of the table latched, and the CRCs of
the rule's two frames computed. -/
theorem encWrCoilBuildsItsRequest : Obligations.EncWrCoilBuildsItsRequest :=
  ⟨fun _ _ _ _ => ⟨rfl, rfl⟩,
    fun dev aH aL _ _ rest h0 h1 => step_of_decode_illegal (decode_illegal_coil h0 h1 dev aH aL rest),
    fun dev a v => exec_encode_latches (i := .encWrCoil dev a v) rfl, rfl, by decide +kernel, by decide +kernel⟩

/-- Settles O26: the row of the command map, the request of the table latched, and the CRC of the rule's frame computed. -/
theorem encWrU16BuildsItsRequest : Obligations.EncWrU16BuildsItsRequest :=
  ⟨fun _ _ _ _ _ _ => rfl, fun dev a v => exec_encode_latches (i := .encWrU16 dev a v) rfl, rfl, by decide +kernel⟩

/-- Settles O27: the row of the command map, the request of the table latched, and the CRC of the rule's frame computed. -/
theorem encWrF32BuildsItsRequest : Obligations.EncWrF32BuildsItsRequest :=
  ⟨fun _ _ _ _ _ _ _ _ => rfl, fun dev a f => exec_encode_latches (i := .encWrF32 dev a f) rfl, rfl, by decide +kernel⟩

end

section
/-! Which check decides DEC's outcome, one lemma a check, each with the warning it leaves (spec/42_decode.md R120 to R126, in the
order of spec/60_exceptions.md R163), and what DEC leaves of a failure. -/

namespace Sys2Proof.Machine

/-- A DEC that fails leaves its code and no value (R126). -/
theorem exec_dec_of_failure {rx : List Byte} {s : State} {code : Status} {warned : Bool}
    (hout : decOutcome rx s = code ∧ crcWarned rx s = warned) (hfail : code ≠ .ok) :
    exec (.dec rx) s = .next { s with
      pendValid := false, status := code, result := 0x00000000, resultValid := false, crcWarn := warned } := by
  obtain ⟨rfl, rfl⟩ := hout
  simp [exec_dec, hfail]

/-- Without a pending request DEC ends before its checks (R120). -/
theorem exec_dec_of_no_request {s : State} (hp : s.pendValid = false) (rx : List Byte) :
    exec (.dec rx) s = .next (finish .noPendingRequest (clearOutcome s)) := by
  simp [exec, execDec, hp]

section
variable {rx : List Byte} {s : State} (hp : s.pendValid = true)
include hp

theorem decOutcome_of_wrong_length (hl : rx.length ≠ s.pendKind.rlen) :
    decOutcome rx s = .shortRead ∧ crcWarned rx s = false := by
  simp [decOutcome, crcWarned, hp, hl]

variable (hl : rx.length = s.pendKind.rlen)
include hl

theorem decOutcome_of_wrong_device (ha : rxByte rx 0 ≠ s.txb[0]) :
    decOutcome rx s = .addressMismatch ∧ crcWarned rx s = false := by
  simp [decOutcome, crcWarned, hp, hl, ha]

variable (ha : rxByte rx 0 = s.txb[0])
include ha

theorem decOutcome_of_strict_mismatch (hpol : s.policy = .strict) (hbad : crcMismatch rx = true) :
    decOutcome rx s = .checksumMismatch ∧ crcWarned rx s = false := by
  simp [decOutcome, crcWarned, hp, hl, ha, hpol, hbad]

theorem crcWarned_of_lenient_mismatch (hpol : s.policy = .lenient) (hbad : crcMismatch rx = true) :
    crcWarned rx s = true := by
  simp [crcWarned, hp, hl, ha, hpol, hbad]

theorem decOutcome_of_wrong_function (hc : crcMismatch rx = false ∨ s.policy = .lenient) (hf : rxByte rx 1 ≠ s.txb[1]) :
    decOutcome rx s = .functionMismatch ∧ crcWarned rx s = crcMismatch rx := by
  rcases hc with hc | hc <;> simp [decOutcome, crcWarned, hp, hl, ha, hf, hc]

end

/-- Past the CRC check no other check reports its code. -/
theorem decOutcome_ne_checksumMismatch {rx : List Byte} {s : State} (hc : crcMismatch rx = false ∨ s.policy = .lenient) :
    decOutcome rx s ≠ .checksumMismatch := by
  have hkind : kindOutcome rx s ≠ .checksumMismatch := by
    obtain h | h | h := kindOutcome_cases rx s <;> rw [h] <;> decide
  have hpass : ¬(s.policy = .strict ∧ crcMismatch rx = true) := by
    rcases hc with hc | hc <;> simp [hc]
  unfold decOutcome
  rw [if_neg hpass]
  split_ifs
  case neg => exact hkind
  all_goals decide

/-- The outcome OK has every check before the kind's behind it. -/
theorem checks_of_decOutcome_ok {rx : List Byte} {s : State} (h : decOutcome rx s = .ok) :
    s.pendValid = true ∧ rx.length = s.pendKind.rlen ∧ rxByte rx 0 = s.txb[0] ∧
    (s.policy = .strict → crcMismatch rx = false) := by
  unfold decOutcome at h
  split_ifs at h with hp hl ha hc hf
  exact ⟨by simpa using hp, not_not.mp hl, not_not.mp ha, fun hpol => by simpa [hpol] using hc⟩

end Sys2Proof.Machine
end

section
/-! The CRC field of a response: its last two bytes, which the field test compares and no later check reads (R124). -/

namespace Sys2Proof.Machine

/-- A response has a body and, at its end, two CRC bytes. -/
theorem exists_eq_append_crc_field {rx : List Byte} (h : 2 ≤ rx.length) : ∃ body cl ch, rx = body ++ [cl, ch] := by
  have hlen : (rx.drop (rx.length - 2)).length = 2 := by rw [List.length_drop]; omega
  obtain ⟨cl, ch, hfield⟩ := List.length_eq_two.mp hlen
  exact ⟨rx.take (rx.length - 2), cl, ch, by rw [← hfield, List.take_append_drop]⟩

theorem two_le_rlen (k : Kind) : 2 ≤ k.rlen := by cases k <;> decide

theorem crcMismatch_append_eq_false_iff {body : List Byte} {cl ch : Byte} :
    crcMismatch (body ++ [cl, ch]) = false ↔ crc16 body = be16 ch cl := by
  simp [crcMismatch_append]

/-- With its CRC bytes swapped, a response that passed the field test passes it only if they are equal. -/
theorem crcMismatch_swapped_eq_false_iff {body : List Byte} {cl ch : Byte} (h : crcMismatch (body ++ [cl, ch]) = false) :
    crcMismatch (body ++ [ch, cl]) = false ↔ cl = ch := by
  rw [crcMismatch_append_eq_false_iff] at h ⊢
  rw [h, be16_inj]
  exact ⟨fun ⟨_, h⟩ => h, fun h => ⟨h.symm, h⟩⟩

/-- The field test is the residue test (R96). -/
theorem crcMismatch_eq_false_iff_residue {rx : List Byte} (h : 2 ≤ rx.length) :
    crcMismatch rx = false ↔ crc16 rx = 0x0000 := by
  obtain ⟨body, cl, ch, rfl⟩ := exists_eq_append_crc_field h
  rw [crcMismatch_append_eq_false_iff, crc16_append_two_bytes_eq_zero_iff]

theorem rxByte_append {body : List Byte} {j : Nat} (h : j < body.length) (tail : List Byte) :
    rxByte (body ++ tail) j = rxByte body j := by
  simp [rxByte, List.getElem?_append_left h]

section
variable {body : List Byte} {s : State}

/-- The kind's check does not read the CRC field. -/
theorem kindOutcome_append (h : body.length + 2 = s.pendKind.rlen) (field : List Byte) :
    kindOutcome (body ++ field) s = kindOutcome body s := by
  unfold kindOutcome
  cases hk : s.pendKind
  all_goals
    simp only [hk, Kind.rlen, Nat.reduceEqDiff] at h
    simp [rxByte_append, h]

/-- Nor is the value taken from it. -/
theorem responseValue_append {k : Kind} (h : body.length + 2 = k.rlen) (field : List Byte) :
    responseValue (body ++ field) k = responseValue body k := by
  cases k
  all_goals
    simp only [Kind.rlen, Nat.reduceEqDiff] at h
    simp [responseValue, rxByte_append, h]

/-- Under LENIENT the CRC field decides nothing but the warning. -/
theorem decOutcome_append_of_lenient (hpol : s.policy = .lenient) (h : body.length + 2 = s.pendKind.rlen)
    {field field' : List Byte} (hfield : field.length = field'.length) :
    decOutcome (body ++ field) s = decOutcome (body ++ field') s := by
  have hlen : 2 < body.length := by
    have : 6 ≤ s.pendKind.rlen := by cases s.pendKind <;> decide
    omega
  have h0 : 0 < body.length := by omega
  have h1 : 1 < body.length := by omega
  simp [decOutcome, hpol, hfield, rxByte_append h0, rxByte_append h1, kindOutcome_append h]

/-- Under LENIENT a response ends as the same response with the right CRC, the warning apart (R124). -/
theorem exec_dec_frame_of_lenient (hpol : s.policy = .lenient) (h : body.length + 2 = s.pendKind.rlen) (cl ch : Byte) :
    exec (.dec (frame body)) s = .next { afterDec (body ++ [cl, ch]) s with crcWarn := false } := by
  have hout : decOutcome (frame body) s = decOutcome (body ++ [cl, ch]) s := decOutcome_append_of_lenient hpol h rfl
  have hvalue : responseValue (frame body) s.pendKind = responseValue (body ++ [cl, ch]) s.pendKind :=
    (responseValue_append h _).trans (responseValue_append h _).symm
  have hwarn : crcWarned (frame body) s = false := crcWarned_of_good_crc (crcMismatch_frame body) s
  simp only [exec_dec_eq_afterDec, afterDec, hout, hvalue, hwarn]

end

end Sys2Proof.Machine
end

section
/-! A response past the shared checks: what DEC leaves is the kind's (R127 to R131). -/

namespace Sys2Proof.Machine

section
variable {rx : List Byte} {s : State} (hp : s.pendValid = true) (hl : rx.length = s.pendKind.rlen)
  (ha : rxByte rx 0 = s.txb[0]) (hf : rxByte rx 1 = s.txb[1]) (hc : crcMismatch rx = false ∨ s.policy = .lenient)
include hp hl ha hf hc

/-- A read kind checks a byte count and then delivers the value. -/
theorem exec_dec_of_read {countRight : Prop} [Decidable countRight] (hread : s.pendKind.isRead = true)
    (hkind : kindOutcome rx s = if countRight then .ok else .unexpectedByteCount) :
    exec (.dec rx) s = .next { s with
      pendValid := false
      status := if countRight then .ok else .unexpectedByteCount
      result := if countRight then responseValue rx s.pendKind else 0x00000000
      resultValid := decide countRight
      crcWarn := crcMismatch rx } := by
  obtain ⟨hout, hwarn⟩ := decOutcome_of_checks hp hl ha hf hc
  rw [exec_dec, hout, hwarn, hkind, hread]
  by_cases h : countRight <;> simp [h]

/-- A write kind gives its code and never a value. -/
theorem exec_dec_of_write (hwrite : s.pendKind.isRead = false) :
    exec (.dec rx) s = .next { s with
      pendValid := false
      status := kindOutcome rx s
      result := 0x00000000
      resultValid := false
      crcWarn := crcMismatch rx } := by
  obtain ⟨hout, hwarn⟩ := decOutcome_of_checks hp hl ha hf hc
  rw [exec_dec, hout, hwarn, responseValue_of_not_isRead hwrite, hwrite]
  simp

end

section
variable {rx : List Byte} {s : State}

theorem kindOutcome_rdCoil (hk : s.pendKind = .rdCoil) :
    kindOutcome rx s = if rxByte rx 2 = 0x01 then .ok else .unexpectedByteCount := by
  simp only [kindOutcome, hk]

theorem kindOutcome_rdU16 (hk : s.pendKind = .rdU16) :
    kindOutcome rx s = if rxByte rx 2 = 0x02 then .ok else .unexpectedByteCount := by
  simp only [kindOutcome, hk]

theorem kindOutcome_rdF32 (hk : s.pendKind = .rdF32) :
    kindOutcome rx s = if rxByte rx 2 = 0x04 then .ok else .unexpectedByteCount := by
  simp only [kindOutcome, hk]

/-- The echo, as the four bytes in a row. -/
theorem kindOutcome_wrCoil (hk : s.pendKind = .wrCoil) :
    kindOutcome rx s = if [rxByte rx 2, rxByte rx 3, rxByte rx 4, rxByte rx 5] = [s.txb[2], s.txb[3], s.txb[4], s.txb[5]]
      then .ok else .echoMismatch := by
  simp only [kindOutcome, hk, List.cons.injEq, and_true]

/-- The quantity, as the 16-bit field. -/
theorem kindOutcome_wrRegs (hk : s.pendKind = .wrU16 ∨ s.pendKind = .wrF32) :
    kindOutcome rx s = if be16 (rxByte rx 4) (rxByte rx 5) = be16 s.txb[4] s.txb[5] then .ok else .unexpectedByteCount := by
  rcases hk with hk | hk <;> simp only [kindOutcome, hk, be16_inj]

end

/-- An encode command and the DEC after it. -/
theorem runCommands_encode_dec {i : Instr} {k : Kind} {request : List Byte} (hreq : i.request = some (k, request))
    (rx : List Byte) (s : State) :
    runCommands [i, .dec rx] s = .next (afterDec rx (encodeRequest k request s)) := by
  rw [runCommands_cons (exec_encode hreq s), runCommands_cons (exec_dec_eq_afterDec rx _)]
  rfl

/-- DEC of a frame that answers the request just built delivers its value. -/
theorem runCommands_of_answers {i : Instr} {k : Kind} {request answer rx : List Byte}
    (hreq : i.request = some (k, request)) (hans : Answers k request answer) (hframe : frame answer = rx) (s : State) :
    ∃ u, runCommands [i, .dec rx] s = .next u ∧
      u.status = .ok ∧ u.resultValid = k.isRead ∧ u.result = responseValue rx k := by
  subst hframe
  obtain ⟨hout, -⟩ := decOutcome_of_answers hreq hans s
  exact ⟨_, runCommands_encode_dec hreq _ s, by simp [hout]⟩

/-- Only a coil write's request has the length of its response (R27, R74). -/
theorem requestLength_eq_rlen_iff (k : Kind) : k.requestLength = k.rlen ↔ k = .wrCoil := by cases k <;> decide

/-- A coil write is answered by its own request (R130). -/
theorem answers_self_of_wrCoil {i : Instr} {body : List Byte} (h : i.request = some (.wrCoil, body)) :
    Answers .wrCoil body body := by
  cases i <;> cases h
  case encWrCoil dev a v => exact answers_wrCoil dev a _

end Sys2Proof.Machine
end

section
/-! One changed byte of a response before its CRC field (R132; spec/90_conflicts.md C10). -/

namespace Sys2Proof.Machine

theorem rxByte_set_self {rx : List Byte} {k : Nat} (h : k < rx.length) (b : Byte) : rxByte (rx.set k b) k = b := by
  simp [rxByte, h]

theorem rxByte_set_of_ne {k j : Nat} (h : k ≠ j) (rx : List Byte) (b : Byte) :
    rxByte (rx.set k b) j = rxByte rx j := by
  simp [rxByte, List.getElem?_set_ne h]

theorem crc16_set_ne {body : List Byte} {k : Nat} {b : Byte} (hk : k < body.length) (hb : b ≠ rxByte body k) :
    crc16 (body.set k b) ≠ crc16 body := by
  have hsplit : body = body.take k ++ rxByte body k :: body.drop (k + 1) := by simp [rxByte, hk]
  have hset : body.set k b = body.take k ++ b :: body.drop (k + 1) := by
    simp [List.set_eq_take_append_cons_drop, hk]
  intro h
  rw [hset] at h
  exact hb (crc16_injective_byte (h.trans (congrArg crc16 hsplit)))

/-- A response whose CRC was right has a wrong one after any byte before the CRC field is changed. -/
theorem crcMismatch_set {rx : List Byte} {k : Nat} {b : Byte} (hgood : crcMismatch rx = false) (hk : k + 2 < rx.length)
    (hb : b ≠ rxByte rx k) : crcMismatch (rx.set k b) = true := by
  obtain ⟨body, cl, ch, rfl⟩ := exists_eq_append_crc_field (rx := rx) (by omega)
  have hkb : k < body.length := by simpa using hk
  rw [rxByte_append hkb] at hb
  rw [crcMismatch_append_eq_false_iff] at hgood
  rw [List.set_append_left _ _ hkb, crcMismatch_append, ← hgood, bne_iff_ne]
  exact crc16_set_ne hkb hb

/-- Under STRICT a response that was OK fails with one changed byte: byte 0 at the address check, another at the CRC check. -/
theorem decOutcome_set {rx : List Byte} {k : Nat} {b : Byte} {s : State} (hpol : s.policy = .strict)
    (hok : decOutcome rx s = .ok) (hk : k + 2 < rx.length) (hb : b ≠ rxByte rx k) :
    decOutcome (rx.set k b) s = (if k = 0 then .addressMismatch else .checksumMismatch) ∧
    crcWarned (rx.set k b) s = false := by
  obtain ⟨hp, hl, ha, hgood⟩ := checks_of_decOutcome_ok hok
  have hl' : (rx.set k b).length = s.pendKind.rlen := by rw [List.length_set, hl]
  by_cases h0 : k = 0
  · subst h0
    rw [if_pos rfl]
    refine decOutcome_of_wrong_device hp hl' ?_
    rwa [rxByte_set_self (by omega), ← ha]
  · rw [if_neg h0]
    refine decOutcome_of_strict_mismatch hp hl' ?_ hpol (crcMismatch_set (hgood hpol) hk hb)
    rw [rxByte_set_of_ne h0, ha]

end Sys2Proof.Machine
end

section
open Sys2Proof Sys2Proof.Machine

/-- Settles O42: the length check is the first to fail. -/
theorem wrongLengthIsShortRead : Obligations.WrongLengthIsShortRead :=
  fun _ _ hp hl => exec_dec_of_failure (decOutcome_of_wrong_length hp hl) nofun

/-- Settles O43: the address check is the first to fail, and neither POLICY nor the CRC has been looked at. -/
theorem wrongDeviceIsAddressMismatch : Obligations.WrongDeviceIsAddressMismatch :=
  fun _ _ hp hl ha => exec_dec_of_failure (decOutcome_of_wrong_device hp hl ha) nofun

/-- Settles O44: the field test is the residue test, STRICT makes a mismatch the failing check, and under LENIENT the checks after
it read nothing of the CRC field. -/
theorem crcMismatchFollowsThePolicy : Obligations.CrcMismatchFollowsThePolicy := by
  refine ⟨fun _ _ _ => crcMismatch_swapped_eq_false_iff, fun rx s hp hl ha => ?_⟩
  have hlen : 2 ≤ rx.length := hl ▸ two_le_rlen s.pendKind
  refine ⟨crcMismatch_eq_false_iff_residue hlen, fun hbad hpol => ?strict, fun hbad hpol => ?lenient, fun hgood => ?good⟩
  case strict => exact exec_dec_of_failure (decOutcome_of_strict_mismatch hp hl ha hpol hbad) nofun
  case lenient =>
    refine ⟨afterDec rx s, exec_dec_eq_afterDec rx s, crcWarned_of_lenient_mismatch hp hl ha hpol hbad,
      decOutcome_ne_checksumMismatch (.inr hpol), ?_⟩
    obtain ⟨body, cl, ch, rfl⟩ := exists_eq_append_crc_field hlen
    simpa using exec_dec_frame_of_lenient hpol (by simpa using hl) cl ch
  case good =>
    exact ⟨afterDec rx s, exec_dec_eq_afterDec rx s, crcWarned_of_good_crc hgood s,
      decOutcome_ne_checksumMismatch (.inl hgood)⟩

/-- Settles O46: the function-code check is the first to fail, with the mismatch already recorded as a warning. -/
theorem wrongFunctionIsFunctionMismatch : Obligations.WrongFunctionIsFunctionMismatch :=
  fun _ _ hp hl ha hc hf => exec_dec_of_failure (decOutcome_of_wrong_function hp hl ha hc hf) nofun

/-- Settles O47: whichever check failed, DEC leaves its code and the warning recorded before it. -/
theorem failedDecLeavesNoValue : Obligations.FailedDecLeavesNoValue :=
  fun _ _ hfail => exec_dec_of_failure ⟨rfl, rfl⟩ hfail

/-- Settles O49: the kind's byte count is 1 and its value bit 0 of byte 3; the rule's bytes are the frame that answers its
request. -/
theorem readCoilDecodesBitZero : Obligations.ReadCoilDecodesBitZero := by
  constructor
  · intro dv fc bc sb cl ch s hp hk ha hf hc
    rw [exec_dec_of_read (rx := [dv, fc, bc, sb, cl, ch]) hp (by rw [hk]; rfl) ha hf hc (by rw [hk]; rfl)
      (kindOutcome_rdCoil hk), hk, ite_and]
    rfl
  · intro s _
    obtain ⟨u, hrun, hstatus, hvalid, hresult⟩ := runCommands_of_answers (i := .encRdCoil 0x01 0x0000)
      (rx := [0x01, 0x01, 0x01, 0x01, 0x90, 0x48]) rfl (answers_rdCoil 0x01 0x0000 0x01) (by decide +kernel) s
    exact ⟨u, hrun, hstatus, hresult, hvalid⟩

/-- Settles O50: the kind's byte count is 2 and its value the field of bytes 3 and 4; the rule's bytes are the frame that answers
its request. -/
theorem readRegisterDecodesItsValue : Obligations.ReadRegisterDecodesItsValue := by
  constructor
  · intro dv fc bc vh vl cl ch s hp hk ha hf hc
    rw [exec_dec_of_read (rx := [dv, fc, bc, vh, vl, cl, ch]) hp (by rw [hk]; rfl) ha hf hc (by rw [hk]; rfl)
      (kindOutcome_rdU16 hk), hk]
    rfl
  · intro s _
    obtain ⟨u, hrun, hstatus, hvalid, hresult⟩ := runCommands_of_answers (i := .encRdU16 0x01 0x0A34)
      (rx := [0x01, 0x03, 0x02, 0x12, 0x34, 0xB5, 0x33]) rfl (answers_rdU16 0x01 0x0A34 0x1234) (by decide +kernel) s
    exact ⟨u, hrun, hstatus, hresult, hvalid⟩

/-- Settles O51: the kind's byte count is 4 and its value the pattern of bytes 3 to 6; the rule's bytes are the frame that answers
its request. -/
theorem readFloatDecodesThePattern : Obligations.ReadFloatDecodesThePattern := by
  constructor
  · intro dv fc bc d0 d1 d2 d3 cl ch s hp hk ha hf hc
    rw [exec_dec_of_read (rx := [dv, fc, bc, d0, d1, d2, d3, cl, ch]) hp (by rw [hk]; rfl) ha hf hc (by rw [hk]; rfl)
      (kindOutcome_rdF32 hk), hk]
    rfl
  · intro s _
    obtain ⟨u, hrun, hstatus, hvalid, hresult⟩ := runCommands_of_answers (i := .encRdF32 0x01 0x0A34)
      (rx := [0x01, 0x03, 0x04, 0x3F, 0x1E, 0x00, 0x00, 0x96, 0x21]) rfl (answers_rdF32 0x01 0x0A34 0x3F1E0000)
      (by decide +kernel) s
    exact ⟨u, hrun, hstatus, hresult, hvalid⟩

/-- Settles O52: the kind's check compares the four bytes after the function code; of the rule's two responses one answers its
request, and the other has the shared checks behind it and differs in bytes 4 and 5. -/
theorem writeCoilNeedsItsEcho : Obligations.WriteCoilNeedsItsEcho := by
  constructor
  · intro dv fc ah al vh vl cl ch s hp hk ha hf hc
    rw [exec_dec_of_write (rx := [dv, fc, ah, al, vh, vl, cl, ch]) hp (by rw [hk]; rfl) ha hf hc (by rw [hk]; rfl),
      kindOutcome_wrCoil hk]
    rfl
  · intro s _
    have hreq : (Instr.encWrCoil 0x01 0x0000 true).request = some (.wrCoil, [0x01, 0x05, 0x00, 0x00, 0x00, 0x01]) := rfl
    obtain ⟨t, hrun, hstatus, hvalid, -⟩ := runCommands_of_answers hreq
      (rx := [0x01, 0x05, 0x00, 0x00, 0x00, 0x01, 0x0C, 0x0A]) (answers_wrCoil 0x01 0x0000 0x01) (by decide +kernel) s
    have hother : kindOutcome [0x01, 0x05, 0x00, 0x00, 0xFF, 0x00, 0x8C, 0x3A]
        (encodeRequest .wrCoil [0x01, 0x05, 0x00, 0x00, 0x00, 0x01] s) = .echoMismatch := rfl
    obtain ⟨hout, -⟩ := decOutcome_of_checks (rx := [0x01, 0x05, 0x00, 0x00, 0xFF, 0x00, 0x8C, 0x3A])
      (s := encodeRequest .wrCoil [0x01, 0x05, 0x00, 0x00, 0x00, 0x01] s) rfl rfl rfl rfl (.inl (by decide +kernel))
    exact ⟨t, _, hrun, hstatus, hvalid, runCommands_encode_dec hreq _ s, hout.trans hother⟩

/-- Settles O53: the kinds' check compares the quantity, which their requests put in TXB[4..5]; the rule's bytes are the frame
that answers its request. -/
theorem writeRegistersNeedTheQuantity : Obligations.WriteRegistersNeedTheQuantity := by
  refine ⟨?check, ?u16, ?f32, ?echo⟩
  case check =>
    intro dv fc ah al qh ql cl ch s hp hk ha hf hc
    obtain ⟨hlen, hwrite⟩ : s.pendKind.rlen = 8 ∧ s.pendKind.isRead = false := by
      rcases hk with hk | hk <;> rw [hk] <;> decide
    rw [exec_dec_of_write (rx := [dv, fc, ah, al, qh, ql, cl, ch]) hp hlen.symm ha hf hc hwrite, kindOutcome_wrRegs hk]
    rfl
  case u16 => exact fun dev a v s => ⟨_, rfl, rfl, rfl⟩
  case f32 => exact fun dev a f s => ⟨_, rfl, rfl, rfl⟩
  case echo =>
    intro s _
    obtain ⟨u, hrun, hstatus, -⟩ := runCommands_of_answers (i := .encWrU16 0x01 0x0000 0x0001)
      (rx := [0x01, 0x10, 0x00, 0x00, 0x00, 0x01, 0x01, 0xC9]) rfl (answers_wrU16 0x01 0x0000 0x0000 0x0001)
      (by decide +kernel) s
    exact ⟨u, hrun, hstatus⟩

/-- Settles O54: a coil write's request is its own answer, and every other kind's request has another length than its
response. -/
theorem loopBackPassesOnlyForWriteCoil : Obligations.LoopBackPassesOnlyForWriteCoil := by
  intro i k body s hreq
  refine ⟨encodeRequest k body s, ?_⟩
  rw [txFrame_encodeRequest k body s ((request_length hreq).trans_le (requestLength_le k).2)]
  by_cases hk : k = .wrCoil
  · subst hk
    obtain ⟨u, hdec, hstatus, hvalid, -, hwarn⟩ := exec_dec_of_answers hreq (answers_self_of_wrCoil hreq) s
    exact ⟨u, exec_encode hreq s, hdec, hstatus, hvalid, hwarn⟩
  · have hlen : (frame body).length ≠ k.rlen := by
      rwa [frame_length_of_request hreq, ne_eq, requestLength_eq_rlen_iff]
    exact ⟨_, exec_encode hreq s, exec_dec_of_failure (decOutcome_of_wrong_length rfl hlen) nofun,
      (if_neg hk).symm, rfl, rfl⟩

/-- Settles O55: the changed byte is the device address, or it is one the CRC tells from the byte that stood there. -/
theorem oneCorruptedByteIsDetected : Obligations.OneCorruptedByteIsDetected := by
  intro rx k b s _ hpol hok hk hb
  exact exec_dec_of_failure (decOutcome_set hpol hok hk hb) (by split <;> nofun)

/-- Settles O41: without a pending request DEC clears the outcome and ends before its checks. -/
theorem decWithoutARequestReportsIt : Obligations.DecWithoutARequestReportsIt :=
  fun rx _ hp => exec_dec_of_no_request hp rx

end

section
/-! The configuration commands, one equation each, from `exec` and from their bytes (spec/43_config.md R150, R151). -/

namespace Sys2Proof.Machine

theorem exec_nop (s : State) : exec .nop s = .next s := rfl

theorem exec_setPolicy (p : Policy) (s : State) :
    exec (.setPolicy p) s = .next { s with policy := p, status := .ok } := rfl

theorem step_of_nop_bytes (s : State) (rest : List Byte) :
    step { s with stream := 0x00 :: rest } = .next { s with stream := rest } :=
  (step_of_encode (i := .nop) rfl rfl).trans (exec_nop _)

theorem step_of_setPolicy_bytes (p : Policy) (s : State) (rest : List Byte) :
    step { s with stream := 0x04 :: policyByte p :: rest } =
      .next { s with stream := rest, policy := p, status := .ok } :=
  (step_of_encode (i := .setPolicy p) rfl rfl).trans (exec_setPolicy p _)

@[simp] theorem runCommands_singleton (i : Instr) (s : State) : runCommands [i] s = exec i s := by
  obtain ⟨t, ht⟩ := exec_completes i s
  rw [runCommands_cons ht, ht]
  rfl

end Sys2Proof.Machine
end

section
open Sys2Proof Sys2Proof.Machine

/-- Settles O11: NOP's meaning is the state it is given, and its one byte is all that a step takes. -/
theorem nopChangesNothing : Obligations.NopChangesNothing :=
  fun s rest => ⟨exec_nop s, step_of_nop_bytes s rest⟩

/-- Settles O12: both legal operands through SET_POLICY's own equation, any other through the decoder's illegal form, and the DEC
runs in the state SET_POLICY leaves. -/
theorem setPolicyWritesPolicyAndStatus : Obligations.SetPolicyWritesPolicyAndStatus := by
  refine ⟨rfl, rfl, rfl, exec_setPolicy, fun s rest => ?legal, fun p s rest h0 h1 => ?illegal, fun p rx s => ?decAfter⟩
  case legal => exact ⟨step_of_setPolicy_bytes .strict s rest, step_of_setPolicy_bytes .lenient s rest⟩
  case illegal => exact step_of_decode_illegal (decode_illegal_policy h0 h1 rest)
  case decAfter => rw [runCommands_cons (exec_setPolicy p s), runCommands_singleton]

end

section
/-! The two ends of a transaction, by what the transport answers to the write, and a session on an open port in terms of its
calls (spec/60_exceptions.md R176, R177, R179). -/

namespace Sys2Proof.Machine

/-- With a request pending DEC reports one of the codes 0x0 to 0x6 (R120, R179). -/
theorem decOutcome_code_le {s : State} (hp : s.pendValid = true) (rx : List Byte) :
    (decOutcome rx s).code.toNat ≤ 0x6 := by
  have hkind : (kindOutcome rx s).code.toNat ≤ 0x6 := by
    obtain h | h | h := kindOutcome_cases rx s <;> rw [h] <;> decide
  unfold decOutcome
  rw [if_neg (by simp [hp])]
  split_ifs
  case neg => exact hkind
  all_goals decide

/-- A read cut off by an IOError leaves STATUS ShortRead and no value (R177; spec/92_eei_decisions.md D21). -/
theorem afterDec_of_ioError {k : Kind} {r : ReadAnswer k.rlen} {s : State} (hr : r.ioError = true)
    (hp : s.pendValid = true) (hk : s.pendKind = k) :
    (afterDec r.bytes s).status = .shortRead ∧ (afterDec r.bytes s).resultValid = false := by
  simp [decOutcome_of_ioError hr hp hk]

section
variable {a : Accessor} {body : List Byte} (hr : a.command.request = some (a.kind, body)) (h : Handle)
  {w : Transport a.kind} (s : State)
include hr

/-- A frame not sent whole ends the transaction right after the encode command (R177). -/
theorem transaction_of_short (hw : w.write.short a.kind.requestLength = true) :
    transaction h a w s = .next ⟨encodeRequest a.kind body s, .shortWrite, sentEvents h a body⟩ := by
  rw [transaction_eq hr, if_pos hw]

/-- After a frame sent whole the transaction ends with DEC of the bytes received (R177). -/
theorem transaction_of_sent (hw : w.write.short a.kind.requestLength = false) :
    transaction h a w s = .next
      ⟨afterDec w.read.bytes (encodeRequest a.kind body s),
        reportOf (afterDec w.read.bytes (encodeRequest a.kind body s)),
        sentEvents h a body ++ receivedEvents h a.kind w.read.bytes⟩ := by
  rw [transaction_eq hr, if_neg (by simp [hw]), exec_dec_eq_afterDec]
  rfl

end

/-- On an open port the session is its calls, between the open and the close (R176). -/
theorem session_of_runCalls {h : Handle} {calls : List Call} {s : State} {e : Ended (List Report)}
    (he : runCalls h calls s = .next e) (port : String) :
    session port (.handle h) calls s =
      .next ⟨e.block, .closed e.report, .openPort port Config.lineSettings :: (e.events ++ [.close h])⟩ := by
  simp only [session, openPort_handle, he, closePort_eq]

end Sys2Proof.Machine
end

section
open Sys2Proof Sys2Proof.Machine

/-- Settles O36: the codes are the table's, and of the updates a command can make, only DEC's needs a look: its outcome is
never a host's code. -/
theorem statusCodesAndTheHostsOwn : Obligations.StatusCodesAndTheHostsOwn := by
  refine ⟨rfl, rfl, rfl, rfl, rfl, rfl, rfl, rfl, rfl, rfl, rfl, rfl, ?codes, fun i s hwrite hopen => ?own⟩
  case codes => intro x; cases x <;> decide
  case own =>
    apply exec_elim (P := fun _ t => t.status ≠ .shortWrite ∧ t.status ≠ .portOpenFailure) i s
    case dec => exact fun rx => decOutcome_not_hosts rx s
    case crc => exact fun _ _ _ => ⟨hwrite, hopen⟩
    case nop => exact ⟨hwrite, hopen⟩
    case encode | setPolicy | illegal => simp

/-- Settles O48: DEC's checks, run in order, leave the code of `decOutcome`'s chain. -/
theorem firstFailingCheckDecides : Obligations.FirstFailingCheckDecides :=
  fun rx s => ⟨afterDec rx s, exec_dec_eq_afterDec rx s, afterDec_status rx s⟩

/-- Settles O57: the encode command latches the accessor's request, and the write's answer selects one of the two ends of the
transaction. -/
theorem transactionIsEncodeThenDec : Obligations.TransactionIsEncodeThenDec := by
  intro h a w s
  obtain ⟨body, hr⟩ := a.command_request
  have hlen := encodeRequest_txlen_toNat hr s
  have hframe : txFrame (encodeRequest a.kind body s) = frame body :=
    txFrame_encodeRequest _ _ s ((request_length hr).trans_le (requestLength_le _).2)
  refine ⟨encodeRequest a.kind body s, body, exec_encode hr s, hr, hframe, hlen, rfl, fun hw => ?ioError,
    fun c hw => ⟨fun hc => ?short, fun hc => ⟨w.read.dec_wellFormed, _, exec_dec_eq_afterDec _ _, ?readFails, ?sent⟩⟩⟩
  case ioError => exact transaction_of_short hr h s (by simp [hw])
  case short =>
    rw [hlen] at hc
    exact transaction_of_short hr h s (by simpa [hw] using hc)
  case readFails => exact fun hio => afterDec_of_ioError hio rfl rfl
  case sent =>
    rw [hlen] at hc
    exact transaction_of_sent hr h s (by simpa [hw] using hc)

/-- Settles O58: a short write ends in ShortWrite, and otherwise DEC runs with the request pending. -/
theorem transactionEndsInARecordedOutcome : Obligations.TransactionEndsInARecordedOutcome := by
  intro h a w s
  obtain ⟨body, hr⟩ := a.command_request
  cases hw : w.write.short a.kind.requestLength
  case true => exact ⟨_, transaction_of_short hr h s hw, .inl rfl⟩
  case false =>
    have hpend : (encodeRequest a.kind body s).pendValid = true := rfl
    exact ⟨_, transaction_of_sent hr h s hw, .inr ⟨decOutcome_code_le hpend w.read.bytes, rfl⟩⟩

/-- Settles O60: a session is its calls between the open and the close, and the calls after the first go on from the state
it left. -/
theorem sessionMakesEveryCallInOrder : Obligations.SessionMakesEveryCallInOrder := by
  refine ⟨rfl, ?_⟩
  rintro port _ rfl
  refine ⟨fun calls s => rfl, fun h s => ⟨session_of_runCalls (e := ⟨s, [], []⟩) rfl port, fun c calls => ?_⟩⟩
  obtain ⟨e, he⟩ := transaction_completes h c.accessor c.transport s
  obtain ⟨rest, hrest, hcount⟩ := runCalls_completes h calls e.block
  have hall : runCalls h (c :: calls) s = .next ⟨rest.block, e.report :: rest.report, e.events ++ rest.events⟩ := by
    rw [runCalls_cons he, hrest]
    rfl
  exact ⟨e, rest.block, rest.report, rest.events, he, session_of_runCalls hrest port, hcount,
    session_of_runCalls hall port⟩

end

section
/-! A CRC stream in the middle of a program (spec/40_crc.md R92 to R94, spec/70_reset_and_hazards.md R201). -/

namespace Sys2Proof.Machine

/-- CRC_INIT makes the stream after it independent of the old ACC; what follows runs from the stream's CRC. -/
theorem runCommands_stream_append (xs : List Byte) (is : List Instr) (s : State) :
    runCommands ((.crcInit :: xs.map .crcUpdate) ++ is) s = runCommands is { s with acc := crc16 xs } :=
  (runCommands_cons (exec_crcInit s) _).trans (runCommands_crcUpdates xs is _)

/-- Without CRC_INIT before it, a stream goes on from the ACC it finds (R93). -/
theorem runCommands_only_crcUpdates (ys : List Byte) (s : State) :
    runCommands (ys.map .crcUpdate) s = .next { s with acc := ys.foldl crcStep s.acc } := by
  rw [← List.append_nil (ys.map _), runCommands_crcUpdates]
  rfl

end Sys2Proof.Machine
end

section
/-! The state after a reset (spec/70_reset_and_hazards.md R190, R191). -/

namespace Sys2Proof.Machine

/-- No frame is built, no request is pending, no value and no warning stand: of each clause of the invariant, either the
hypothesis fails or the registers' reset values meet it (R190 against R24 to R31). -/
theorem State.reset_inv : State.reset.Inv where
  noFrame _ := ⟨rfl, rfl⟩
  frameBuilt h := absurd rfl h
  pendingFresh := nofun
  statusOwn := ⟨nofun, nofun⟩
  noValue _ := rfl
  valueOfRead := nofun
  valueRange := ⟨fun _ => by decide, nofun⟩
  warnStatus := nofun

/-- After a reset nothing is pending, and the result registers that DEC clears are clear already (R191, R120). -/
theorem exec_dec_hostReset (rx : List Byte) (s : State) :
    exec (.dec rx) (hostReset s) = .next { hostReset s with status := .noPendingRequest } :=
  exec_dec_of_no_request (s := hostReset s) rfl rx

end Sys2Proof.Machine
end

section
open Sys2Proof Sys2Proof.Machine

/-- Settles O19: the second stream folds on from the CRC of the first, which is the fold over both, while CRC_COMPUTE starts from
the seed whatever ACC holds. -/
theorem omittedCrcInitConcatenates : Obligations.OmittedCrcInitConcatenates := by
  intro xs ys s
  constructor
  · rw [runCommands_stream_append, runCommands_only_crcUpdates, crc16_append]
  · rw [runCommands_stream_append, runCommands_singleton, exec_crcCompute]

/-- Settles O1: each reset value read off `State.reset`. -/
theorem resetHoldsTheResetValues : Obligations.ResetHoldsTheResetValues :=
  ⟨rfl, rfl, rfl, rfl, rfl, rfl, rfl, rfl, rfl, rfl⟩

/-- Settles O2: the clauses of the invariant at reset. -/
theorem resetMeetsTheInvariant : Obligations.ResetMeetsTheInvariant := State.reset_inv

/-- Settles O3: `hostReset` is the reset state under the host's stream, and DEC finds no request in it. -/
theorem hostResetDiscardsThePendingRequest : Obligations.HostResetDiscardsThePendingRequest :=
  fun s rx => ⟨rfl, exec_dec_hostReset rx s⟩

end
